-- ==== Sys2Proof/Word.lean ====
section
/-! DEFINITION. The word types of the machine: the widths of 00_scope.md R5 and the fields of 30_encoding.md R71. -/

namespace Sys2Proof

/-- A general register, a timer or one cell of memory: an unsigned value 0..255 (R20, R26, R28). -/
abbrev Byte := BitVec 8

/-- The index register, the program counter, a stack slot or an instruction word (R22, R23, R25, R70). -/
abbrev Word := BitVec 16

/-- The 12-bit immediate `nnn` of an instruction word (R71, R73). -/
abbrev Address := BitVec 12

/-- A 4-bit slice of an instruction word (R8, R71). -/
abbrev Nibble := BitVec 4

/-- A register number: it names V0..VF, and all 16 values are legal in every instruction (R20, R73). -/
abbrev Reg := Fin 16

/-- VF, register 15, the only flag (R21). -/
abbrev regVF : Reg := 15

end Sys2Proof
end

