-- ==== Sys2Proof/Syntax.lean ====
section
/-! DEFINITION. The 34 instructions of 30_encoding.md R79, one constructor per row of spec/opcode_table.json, in its order. -/

namespace Sys2Proof

/-- An instruction with its operands as the fields of R71 give them: `x` and `y` are register numbers, `kk` an
immediate byte, `nnn` a 12-bit address, `n` an unsigned count of sprite rows. `ign` is the nibble a decoder ignores
(the table's field `ignored`); it is kept so that no bit of a word is lost, and no meaning reads it (R81). -/
inductive Instr where
  /-- `00E0` CLEAR (R192) -/
  | cls
  /-- `00EE` RETURN (R122) -/
  | ret
  /-- `1nnn` JUMP (R120) -/
  | jp (nnn : Address)
  /-- `2nnn` CALL (R121) -/
  | call (nnn : Address)
  /-- `3xkk` SKIP-EQUAL, register vs immediate (R123) -/
  | seImm (x : Reg) (kk : Byte)
  /-- `4xkk` SKIP-NOT-EQUAL, register vs immediate (R124) -/
  | sneImm (x : Reg) (kk : Byte)
  /-- `5xy-` SKIP-EQUAL, register vs register (R125) -/
  | seReg (x y : Reg) (ign : Nibble)
  /-- `6xkk` SET (R150) -/
  | ldImm (x : Reg) (kk : Byte)
  /-- `7xkk` ADD-immediate (R151) -/
  | addImm (x : Reg) (kk : Byte)
  /-- `8xy0` LD (R141) -/
  | ldReg (x y : Reg)
  /-- `8xy1` OR (R142) -/
  | orReg (x y : Reg)
  /-- `8xy2` AND (R143) -/
  | andReg (x y : Reg)
  /-- `8xy3` XOR (R144) -/
  | xorReg (x y : Reg)
  /-- `8xy4` ADD (R145) -/
  | addReg (x y : Reg)
  /-- `8xy5` SUB (R146) -/
  | subReg (x y : Reg)
  /-- `8x-6` SHR (R147) -/
  | shr (x : Reg) (ign : Nibble)
  /-- `8xy7` SUBN (R148) -/
  | subnReg (x y : Reg)
  /-- `8x-E` SHL (R149) -/
  | shl (x : Reg) (ign : Nibble)
  /-- `9xy-` SKIP-NOT-EQUAL, register vs register (R126) -/
  | sneReg (x y : Reg) (ign : Nibble)
  /-- `Annn` SET-INDEX (R170) -/
  | ldI (nnn : Address)
  /-- `Bnnn` JUMP-INDEXED (R127) -/
  | jpV0 (nnn : Address)
  /-- `Cxkk` RANDOM (R152) -/
  | rnd (x : Reg) (kk : Byte)
  /-- `Dxyn` DRAW (R191) -/
  | drw (x y : Reg) (n : Nat)
  /-- `Ex-E` SKIP-IF-PRESSED (R201) -/
  | skp (x : Reg) (ign : Nibble)
  /-- `Ex-1` SKIP-IF-NOT-PRESSED (R202) -/
  | sknp (x : Reg) (ign : Nibble)
  /-- `Fx07` LOAD-DELAY (R210) -/
  | ldVxDt (x : Reg)
  /-- `Fx0A` WAIT-FOR-KEY (R203) -/
  | ldVxK (x : Reg)
  /-- `Fx15` SET-DELAY (R211) -/
  | ldDtVx (x : Reg)
  /-- `Fx18` SET-SOUND (R212) -/
  | ldStVx (x : Reg)
  /-- `Fx1E` ADD-TO-INDEX (R171) -/
  | addI (x : Reg)
  /-- `Fx29` FONT-ADDRESS (R172) -/
  | ldF (x : Reg)
  /-- `Fx33` STORE-BCD (R173) -/
  | ldB (x : Reg)
  /-- `Fx55` REGISTER-DUMP (R174) -/
  | ldMemVx (x : Reg)
  /-- `Fx65` REGISTER-LOAD (R175) -/
  | ldVxMem (x : Reg)
deriving DecidableEq, Repr

end Sys2Proof
end

