-- ==== Sys2Proof/WellFormed.lean ====
section
/-! DEFINITION. Which terms of `Instr` are instructions: those whose operands fit their fields (30_encoding.md R73). -/

namespace Sys2Proof

/-- Register numbers, immediates and ignored nibbles fit their fields by their types; the count of sprite rows is a
number and must be 0..15 ("`n` in DRAW is an unsigned count 0..15", R73). -/
def Instr.wellFormed : Instr → Bool
  | .drw _ _ n => decide (n ≤ 15)
  | .cls | .ret | .jp _ | .call _ | .seImm _ _ | .sneImm _ _ | .seReg _ _ _ | .ldImm _ _ | .addImm _ _
  | .ldReg _ _ | .orReg _ _ | .andReg _ _ | .xorReg _ _ | .addReg _ _ | .subReg _ _ | .shr _ _
  | .subnReg _ _ | .shl _ _ | .sneReg _ _ _ | .ldI _ | .jpV0 _ | .rnd _ _ | .skp _ _ | .sknp _ _
  | .ldVxDt _ | .ldVxK _ | .ldDtVx _ | .ldStVx _ | .addI _ | .ldF _ | .ldB _ | .ldMemVx _ | .ldVxMem _ => true

end Sys2Proof
end

