-- ==== Sys2Proof/Decode.lean ====
section
/-! DEFINITION. The decoder (30_encoding.md R71 to R80, 40_fetch_dispatch.md R103), the encoder, and the opcode table. -/

namespace Sys2Proof

/-! ### Fields of the instruction word (R71) -/

/-- A register number as its 4-bit field. -/
def nibbleOf (r : Reg) : Nibble := BitVec.ofNat 4 r.val

/-- The register a 4-bit field selects. -/
def regOf (n : Nibble) : Reg := ⟨n.toNat, n.isLt⟩

/-- `f = op[15:12]`, the opcode family. -/
def familyField (op : Word) : Nibble := op.extractLsb' 12 4

/-- `op[11:8]`. -/
def xField (op : Word) : Nibble := op.extractLsb' 8 4

/-- `op[7:4]`. -/
def yField (op : Word) : Nibble := op.extractLsb' 4 4

/-- `n = op[3:0]`. -/
def nField (op : Word) : Nibble := op.extractLsb' 0 4

/-- `kk = op[7:0]`. -/
def kkField (op : Word) : Byte := op.extractLsb' 0 8

/-- `nnn = op[11:0]`. -/
def nnnField (op : Word) : Address := op.extractLsb' 0 12

/-- The register operand Vx of `op`. -/
def xReg (op : Word) : Reg := regOf (xField op)

/-- The register operand Vy of `op`. -/
def yReg (op : Word) : Reg := regOf (yField op)

/-! ### The decoder -/

/-- Why bytes are no instruction. -/
inductive Reject where
  /-- Fewer than the two bytes of an instruction word (R70). -/
  | truncated
  /-- The word matches no row of R79: an invalid opcode (R80). -/
  | invalidOpcode (op : Word)
deriving DecidableEq, Repr

/-- Family 0 matches the whole word (R74). -/
def decodeFamily0 (op : Word) : Except Reject Instr :=
  match op with
  | 0x00E0#16 => .ok .cls
  | 0x00EE#16 => .ok .ret
  | _ => .error (.invalidOpcode op)

/-- Family 8 dispatches on the low nibble (R77). -/
def decodeFamily8 (op : Word) : Except Reject Instr :=
  match nField op with
  | 0x0#4 => .ok (.ldReg (xReg op) (yReg op))
  | 0x1#4 => .ok (.orReg (xReg op) (yReg op))
  | 0x2#4 => .ok (.andReg (xReg op) (yReg op))
  | 0x3#4 => .ok (.xorReg (xReg op) (yReg op))
  | 0x4#4 => .ok (.addReg (xReg op) (yReg op))
  | 0x5#4 => .ok (.subReg (xReg op) (yReg op))
  | 0x6#4 => .ok (.shr (xReg op) (yField op))
  | 0x7#4 => .ok (.subnReg (xReg op) (yReg op))
  | 0xE#4 => .ok (.shl (xReg op) (yField op))
  | _ => .error (.invalidOpcode op)

/-- Family E dispatches on the low nibble and ignores op[7:4] (R78). -/
def decodeFamilyE (op : Word) : Except Reject Instr :=
  match nField op with
  | 0xE#4 => .ok (.skp (xReg op) (yField op))
  | 0x1#4 => .ok (.sknp (xReg op) (yField op))
  | _ => .error (.invalidOpcode op)

/-- Family F dispatches on the whole low byte (R79). -/
def decodeFamilyF (op : Word) : Except Reject Instr :=
  match kkField op with
  | 0x07#8 => .ok (.ldVxDt (xReg op))
  | 0x0A#8 => .ok (.ldVxK (xReg op))
  | 0x15#8 => .ok (.ldDtVx (xReg op))
  | 0x18#8 => .ok (.ldStVx (xReg op))
  | 0x1E#8 => .ok (.addI (xReg op))
  | 0x29#8 => .ok (.ldF (xReg op))
  | 0x33#8 => .ok (.ldB (xReg op))
  | 0x55#8 => .ok (.ldMemVx (xReg op))
  | 0x65#8 => .ok (.ldVxMem (xReg op))
  | _ => .error (.invalidOpcode op)

/-- The top nibble selects one of 16 families (R103); families 0, 8, E, F have a second level. -/
def decodeWord (op : Word) : Except Reject Instr :=
  match familyField op with
  | 0x0#4 => decodeFamily0 op
  | 0x1#4 => .ok (.jp (nnnField op))
  | 0x2#4 => .ok (.call (nnnField op))
  | 0x3#4 => .ok (.seImm (xReg op) (kkField op))
  | 0x4#4 => .ok (.sneImm (xReg op) (kkField op))
  | 0x5#4 => .ok (.seReg (xReg op) (yReg op) (nField op))
  | 0x6#4 => .ok (.ldImm (xReg op) (kkField op))
  | 0x7#4 => .ok (.addImm (xReg op) (kkField op))
  | 0x8#4 => decodeFamily8 op
  | 0x9#4 => .ok (.sneReg (xReg op) (yReg op) (nField op))
  | 0xA#4 => .ok (.ldI (nnnField op))
  | 0xB#4 => .ok (.jpV0 (nnnField op))
  | 0xC#4 => .ok (.rnd (xReg op) (kkField op))
  | 0xD#4 => .ok (.drw (xReg op) (yReg op) (nField op).toNat)
  | 0xE#4 => decodeFamilyE op
  | 0xF#4 => decodeFamilyF op
  | _ => .error (.invalidOpcode op)

/-- The instruction word of two bytes, high byte first (20_memory.md R54). -/
def wordOfBytes (high low : Byte) : Word := high ++ low

/-- The byte of a word that stands at the lower address (R54). -/
def highByte (w : Word) : Byte := w.extractLsb' 8 8

/-- The byte of a word that stands at the higher address (R54). -/
def lowByte (w : Word) : Byte := w.extractLsb' 0 8

/-- The instruction at the head of a list of bytes, with the bytes after it: every instruction is two bytes (R70). -/
def decodeBytes : List Byte → Except Reject (Instr × List Byte)
  | high :: low :: rest =>
    match decodeWord (wordOfBytes high low) with
    | .ok i => .ok (i, rest)
    | .error r => .error r
  | [_] | [] => .error .truncated

/-- The host's reading of an opcode-table word: `w`'s low `nbits` bits, laid out as the hardware stores an instruction
word (high byte at the lower address, R54) and given to the decoder. -/
def decodeTableWord (nbits w : Nat) : Option Instr :=
  let op : Word := BitVec.ofNat 16 (w % 2 ^ nbits)
  match decodeBytes [highByte op, lowByte op] with
  | .ok (i, _) => some i
  | .error _ => none

/-! ### The encoder (the Pattern column of R79, field by field) -/

/-- Format A of R72: family, then the 12-bit address. -/
def formatA (f : Nibble) (nnn : Address) : Word := f ++ nnn

/-- Formats XK and XS of R72: family, x, then the low byte. -/
def formatXK (f x : Nibble) (kk : Byte) : Word := f ++ x ++ kk

/-- Formats XY and XYN of R72, and XS where the sub-operation is the low nibble: family, x, op[7:4], op[3:0]. -/
def formatXYN (f x y n : Nibble) : Word := f ++ x ++ y ++ n

/-- The instruction word of a well-formed instruction, most significant nibble first. -/
def encode : Instr → Word
  | .cls => 0x00E0#16
  | .ret => 0x00EE#16
  | .jp nnn => formatA 0x1#4 nnn
  | .call nnn => formatA 0x2#4 nnn
  | .seImm x kk => formatXK 0x3#4 (nibbleOf x) kk
  | .sneImm x kk => formatXK 0x4#4 (nibbleOf x) kk
  | .seReg x y ign => formatXYN 0x5#4 (nibbleOf x) (nibbleOf y) ign
  | .ldImm x kk => formatXK 0x6#4 (nibbleOf x) kk
  | .addImm x kk => formatXK 0x7#4 (nibbleOf x) kk
  | .ldReg x y => formatXYN 0x8#4 (nibbleOf x) (nibbleOf y) 0x0#4
  | .orReg x y => formatXYN 0x8#4 (nibbleOf x) (nibbleOf y) 0x1#4
  | .andReg x y => formatXYN 0x8#4 (nibbleOf x) (nibbleOf y) 0x2#4
  | .xorReg x y => formatXYN 0x8#4 (nibbleOf x) (nibbleOf y) 0x3#4
  | .addReg x y => formatXYN 0x8#4 (nibbleOf x) (nibbleOf y) 0x4#4
  | .subReg x y => formatXYN 0x8#4 (nibbleOf x) (nibbleOf y) 0x5#4
  | .shr x ign => formatXYN 0x8#4 (nibbleOf x) ign 0x6#4
  | .subnReg x y => formatXYN 0x8#4 (nibbleOf x) (nibbleOf y) 0x7#4
  | .shl x ign => formatXYN 0x8#4 (nibbleOf x) ign 0xE#4
  | .sneReg x y ign => formatXYN 0x9#4 (nibbleOf x) (nibbleOf y) ign
  | .ldI nnn => formatA 0xA#4 nnn
  | .jpV0 nnn => formatA 0xB#4 nnn
  | .rnd x kk => formatXK 0xC#4 (nibbleOf x) kk
  | .drw x y n => formatXYN 0xD#4 (nibbleOf x) (nibbleOf y) (BitVec.ofNat 4 n)
  | .skp x ign => formatXYN 0xE#4 (nibbleOf x) ign 0xE#4
  | .sknp x ign => formatXYN 0xE#4 (nibbleOf x) ign 0x1#4
  | .ldVxDt x => formatXK 0xF#4 (nibbleOf x) 0x07#8
  | .ldVxK x => formatXK 0xF#4 (nibbleOf x) 0x0A#8
  | .ldDtVx x => formatXK 0xF#4 (nibbleOf x) 0x15#8
  | .ldStVx x => formatXK 0xF#4 (nibbleOf x) 0x18#8
  | .addI x => formatXK 0xF#4 (nibbleOf x) 0x1E#8
  | .ldF x => formatXK 0xF#4 (nibbleOf x) 0x29#8
  | .ldB x => formatXK 0xF#4 (nibbleOf x) 0x33#8
  | .ldMemVx x => formatXK 0xF#4 (nibbleOf x) 0x55#8
  | .ldVxMem x => formatXK 0xF#4 (nibbleOf x) 0x65#8

/-- The encoding an assembler emits: where the decoder ignores a nibble, the nibble R85 names (0 for 5xy0 and 9xy0, 9
and A for Ex9E and ExA1); the shifts carry whatever y the programmer wrote. -/
def Instr.canonical : Instr → Bool
  | .seReg _ _ ign | .sneReg _ _ ign => ign == 0x0#4
  | .skp _ ign => ign == 0x9#4
  | .sknp _ ign => ign == 0xA#4
  | .shr _ _ | .shl _ _
  | .cls | .ret | .jp _ | .call _ | .seImm _ _ | .sneImm _ _ | .ldImm _ _ | .addImm _ _
  | .ldReg _ _ | .orReg _ _ | .andReg _ _ | .xorReg _ _ | .addReg _ _ | .subReg _ _
  | .subnReg _ _ | .ldI _ | .jpV0 _ | .rnd _ _ | .drw _ _ _
  | .ldVxDt _ | .ldVxK _ | .ldDtVx _ | .ldStVx _ | .addI _ | .ldF _ | .ldB _ | .ldMemVx _ | .ldVxMem _ => true

/-! ### The opcode table (R79, columns match and mask) -/

/-- One row of R79's map: a word `op` selects the row exactly when `op & mask = pattern`. -/
structure OpcodeRow where
  mnemonic : String
  pattern : Word
  mask : Word
deriving DecidableEq, Repr

/-- Does the word select the row? -/
def OpcodeRow.selects (r : OpcodeRow) (op : Word) : Bool := op &&& r.mask == r.pattern

/-- The 34 rows in the table's order. -/
def opcodeTable : List OpcodeRow :=
  [⟨"CLS", 0x00E0#16, 0xFFFF#16⟩, ⟨"RET", 0x00EE#16, 0xFFFF#16⟩, ⟨"JP", 0x1000#16, 0xF000#16⟩, ⟨"CALL", 0x2000#16, 0xF000#16⟩,
   ⟨"SE_imm", 0x3000#16, 0xF000#16⟩, ⟨"SNE_imm", 0x4000#16, 0xF000#16⟩, ⟨"SE_reg", 0x5000#16, 0xF000#16⟩,
   ⟨"LD_imm", 0x6000#16, 0xF000#16⟩, ⟨"ADD_imm", 0x7000#16, 0xF000#16⟩] ++
  [⟨"LD_reg", 0x8000#16, 0xF00F#16⟩, ⟨"OR", 0x8001#16, 0xF00F#16⟩, ⟨"AND", 0x8002#16, 0xF00F#16⟩, ⟨"XOR", 0x8003#16, 0xF00F#16⟩,
   ⟨"ADD_reg", 0x8004#16, 0xF00F#16⟩, ⟨"SUB", 0x8005#16, 0xF00F#16⟩, ⟨"SHR", 0x8006#16, 0xF00F#16⟩,
   ⟨"SUBN", 0x8007#16, 0xF00F#16⟩, ⟨"SHL", 0x800E#16, 0xF00F#16⟩] ++
  [⟨"SNE_reg", 0x9000#16, 0xF000#16⟩, ⟨"LD_I", 0xA000#16, 0xF000#16⟩, ⟨"JP_V0", 0xB000#16, 0xF000#16⟩, ⟨"RND", 0xC000#16, 0xF000#16⟩,
   ⟨"DRW", 0xD000#16, 0xF000#16⟩, ⟨"SKP", 0xE00E#16, 0xF00F#16⟩, ⟨"SKNP", 0xE001#16, 0xF00F#16⟩] ++
  [⟨"LD_Vx_DT", 0xF007#16, 0xF0FF#16⟩, ⟨"LD_Vx_K", 0xF00A#16, 0xF0FF#16⟩, ⟨"LD_DT_Vx", 0xF015#16, 0xF0FF#16⟩,
   ⟨"LD_ST_Vx", 0xF018#16, 0xF0FF#16⟩, ⟨"ADD_I", 0xF01E#16, 0xF0FF#16⟩, ⟨"LD_F", 0xF029#16, 0xF0FF#16⟩, ⟨"LD_B", 0xF033#16, 0xF0FF#16⟩,
   ⟨"LD_mem_Vx", 0xF055#16, 0xF0FF#16⟩, ⟨"LD_Vx_mem", 0xF065#16, 0xF0FF#16⟩]

/-- The row of the opcode table an instruction stands in. -/
def Instr.mnemonic : Instr → String
  | .cls => "CLS" | .ret => "RET" | .jp _ => "JP" | .call _ => "CALL"
  | .seImm _ _ => "SE_imm" | .sneImm _ _ => "SNE_imm" | .seReg _ _ _ => "SE_reg"
  | .ldImm _ _ => "LD_imm" | .addImm _ _ => "ADD_imm"
  | .ldReg _ _ => "LD_reg" | .orReg _ _ => "OR" | .andReg _ _ => "AND" | .xorReg _ _ => "XOR"
  | .addReg _ _ => "ADD_reg" | .subReg _ _ => "SUB" | .shr _ _ => "SHR" | .subnReg _ _ => "SUBN" | .shl _ _ => "SHL"
  | .sneReg _ _ _ => "SNE_reg" | .ldI _ => "LD_I" | .jpV0 _ => "JP_V0" | .rnd _ _ => "RND" | .drw _ _ _ => "DRW"
  | .skp _ _ => "SKP" | .sknp _ _ => "SKNP"
  | .ldVxDt _ => "LD_Vx_DT" | .ldVxK _ => "LD_Vx_K" | .ldDtVx _ => "LD_DT_Vx" | .ldStVx _ => "LD_ST_Vx"
  | .addI _ => "ADD_I" | .ldF _ => "LD_F" | .ldB _ => "LD_B" | .ldMemVx _ => "LD_mem_Vx" | .ldVxMem _ => "LD_Vx_mem"

end Sys2Proof
end

