-- ==== Sys2Proof/Config.lean ====
section
/-! DEFINITION. What the implementation fixes (00_scope.md R5) and what it leaves open (00_scope.md R6). -/

namespace Sys2Proof.Config

/-- `MEM_SIZE` of R5: addresses 0..4095. -/
abbrev memSize : Nat := 4096

/-- `PROG_BASE` of R5: the initial PC and the address a program image is loaded at. -/
abbrev progBase : Nat := 0x200

/-- `GLYPH_BYTES` of R5: each font glyph occupies five consecutive bytes from address 0. -/
abbrev glyphBytes : Nat := 5

/-- The type of `FONT`, the parameter of R6 that the source leaves open: the 80 bytes reset puts at 0x000..0x04F (R29).
Which font a machine has stands in its state (log entry 4). -/
abbrev Font := Vector Byte 80

/-- The longest program image that fits: 0x200 + 3584 - 1 = 4095 (R224). -/
abbrev maxImage : Nat := 3584

/-- `TIMER_COUPLING` of R6 and 46_timers.md R214, which the source leaves open: whether RunCycle also ends with a
TimerTick. Which value a machine has stands in its state (log entry 3); the spec's default is `external`. -/
inductive TimerCoupling where
  | external
  | perCycle
deriving DecidableEq, Repr

/-- `RNG` of R6: the byte RANDOM's n-th draw takes (42_arithmetic_logic.md R152, 10_state.md R33). A FREE VALUE: it has
no body, so nothing can be proved about it, and a statement holds for every sequence of draws (log entry 1). -/
opaque draw : Nat → Byte

end Sys2Proof.Config
end

