-- ==== Sys2Proof/Machine/Font.lean ====
section
/-! DEFINITION. The default of the parameter `FONT`, and what memory holds after reset with a given font (10_state.md R29,
R37; 00_scope.md R6). -/

namespace Sys2Proof.Machine

/-- The conventional hex-digit glyphs 0..F of the table of R29, five bytes each. -/
def fontTable : List Byte :=
  [0xF0, 0x90, 0x90, 0x90, 0xF0,  0x20, 0x60, 0x20, 0x20, 0x70,
   0xF0, 0x10, 0xF0, 0x80, 0xF0,  0xF0, 0x10, 0xF0, 0x10, 0xF0] ++
  [0x90, 0x90, 0xF0, 0x10, 0x10,  0xF0, 0x80, 0xF0, 0x10, 0xF0,
   0xF0, 0x80, 0xF0, 0x90, 0xF0,  0xF0, 0x10, 0x20, 0x40, 0x40] ++
  [0xF0, 0x90, 0xF0, 0x90, 0xF0,  0xF0, 0x90, 0xF0, 0x10, 0xF0,
   0xF0, 0x90, 0xF0, 0x90, 0x90,  0xE0, 0x90, 0xE0, 0x90, 0xE0] ++
  [0xF0, 0x80, 0x80, 0x80, 0xF0,  0xE0, 0x90, 0x90, 0x90, 0xE0,
   0xF0, 0x80, 0xF0, 0x80, 0xF0,  0xF0, 0x80, 0xF0, 0x80, 0x80]

/-- The default of `FONT` (R6, R29; log entry 4). -/
def defaultFont : Config.Font := ⟨⟨fontTable⟩, by decide⟩

/-- What a memory address holds after reset with the font `f`, and so what an address that memory does not list reads as:
"memory zeroed except font table" (R37, R58). -/
def resetByte (f : Config.Font) (a : Nat) : Byte := if h : a < 80 then f[a] else 0

end Sys2Proof.Machine
end

