-- ==== Sys2Proof/Machine/State.lean ====
section
/-! DEFINITION. The state of the engine (10_state.md R20 to R37), its reset value, and the reasons a step can stop. -/

namespace Sys2Proof.Machine

/-- MEM, 4096 cells of 8 bits (R28): the cells that differ from what they hold after reset, in rising order of address
(`Memory.wf` is the form). -/
abbrev Memory := List Host.Cell

/-- D, the 64x32 grid of one-bit pixels (R30), as 32 rows of 64 pixels. -/
abbrev Display := Vector (Vector Bool 64) 32

/-- `STATUS.cause` (R34): the fatal condition, or none. -/
inductive Cause where
  | none
  | stackOverflow
  | stackUnderflow
  | outOfRange
deriving DecidableEq, Repr

/-- STATUS, the failure record (R34). -/
structure Status where
  halted : Bool
  cause : Cause
  errPc : Word
  errOp : Option Word
  errAddr : Option Nat
deriving DecidableEq, Repr

/-- STATUS with no failure recorded, as reset leaves it (R37). -/
def Status.clear : Status :=
  { halted := false, cause := .none, errPc := 0, errOp := Option.none, errAddr := Option.none }

/-- The report event `InvalidOpcode(op, pc)` (R35, R251). -/
structure Report where
  op : Word
  pc : Word
deriving DecidableEq, Repr

/-- The whole state of the machine: `(V, I, PC, SP, STK, DT, ST, MEM, D, K, STATUS)` and the reports (R36), and three
fields of the model's own, `drawCount`, `coupling` and `font`. -/
structure State where
  /-- V0..VF (R20) -/
  regs : Vector Byte 16
  /-- I (R22) -/
  index : Word
  /-- PC (R23) -/
  pc : Word
  /-- SP, 0..16 inclusive (R24) -/
  sp : Fin 17
  /-- STK[0]..STK[15] (R25) -/
  stack : Vector Word 16
  /-- DT (R26) -/
  dt : Byte
  /-- ST (R27) -/
  st : Byte
  /-- MEM (R28) -/
  mem : Memory
  /-- D (R30) -/
  display : Display
  /-- K[0]..K[15] (R31) -/
  keys : Vector Bool 16
  /-- STATUS (R34) -/
  status : Status
  /-- The reports emitted so far, oldest first (R35) -/
  reports : List Report
  /-- The MODEL's own: how many draws RANDOM has taken (R33; log entry 1) -/
  drawCount : Nat
  /-- The MODEL's own: the parameter `TIMER_COUPLING` of this machine; no step writes it (R6, R214; log entry 3) -/
  coupling : Config.TimerCoupling
  /-- The MODEL's own: the parameter `FONT` of this machine, the constant reset copies in; no step writes it (R6, R29; log
  entry 4) -/
  font : Config.Font
deriving DecidableEq, Repr

/-- Why the machine stops with a fault: there is no reason, so no constructor. The three fatal conditions of R250 are no
faults of the model: their effect is the spec's, a STATUS record in a next state (R257; log entry 2). Safe. -/
inductive Fault where
deriving DecidableEq, Repr

/-- Why an instruction is given no meaning. -/
inductive Refusal where
  /-- Raised by an arm of `exec` that has no meaning yet; in this model no arm has it. Safe. -/
  | notModelled (mnemonic : String)
deriving DecidableEq, Repr

/-- What an instruction, or a cycle, answers. -/
abbrev Result := Host.Outcome State Fault Refusal

/-- The state after reset (R37) of a machine with the given parameters (R6). R37's source facts are memory, the registers,
PC and SP; the other values are the spec's decision D14, and `drawCount` is the model's (log entries 1, 5). Memory lists
nothing: every address reads as reset leaves it with that font. -/
def State.resetWith (font : Config.Font) (coupling : Config.TimerCoupling) : State where
  regs := Vector.replicate 16 0
  index := 0
  pc := 0x200
  sp := 0
  stack := Vector.replicate 16 0
  dt := 0
  st := 0
  mem := []
  display := Vector.replicate 32 (Vector.replicate 64 false)
  keys := Vector.replicate 16 false
  status := Status.clear
  reports := []
  drawCount := 0
  coupling := coupling
  font := font

/-- The state after reset with the parameters at the spec's defaults (R6, R37; log entries 3, 4). -/
def State.reset : State := State.resetWith defaultFont .external

end Sys2Proof.Machine
end

