-- ==== Sys2Proof/Machine/Memory.lean ====
section
/-! DEFINITION. The operations over memory: one byte, the range check, runs of ascending bytes (20_memory.md R50 to R64).
What an unlisted cell holds depends on the font, which each operation therefore takes. -/

namespace Sys2Proof.Machine

/-- The cell `MEM[a]`, without the range check: the listed byte, else what reset left there (R58). -/
def Memory.byteAt (f : Config.Font) : Memory → Nat → Byte
  | [], a => resetByte f a
  | (b, x) :: m, a => if a = b then x else Memory.byteAt f m a

/-- Put a cell into a list of cells in rising order of address. -/
def Memory.insertCell : Memory → Nat → Byte → Memory
  | [], a, x => [(a, x)]
  | (b, y) :: m, a, x =>
    if a < b then (a, x) :: (b, y) :: m
    else if a = b then (a, x) :: m
    else (b, y) :: Memory.insertCell m a x

/-- `MEM[a] <- x`, without the range check. A cell that gets its reset byte back is no longer listed. -/
def Memory.put (f : Config.Font) (m : Memory) (a : Nat) (x : Byte) : Memory :=
  if x = resetByte f a then m.filter (fun c => decide (c.1 ≠ a)) else m.insertCell a x

/-- Is the address one of the 4096 cells (R52)? Addresses are not masked (R53). -/
def inRange (a : Nat) : Bool := decide (a < Config.memSize)

/-- `MemRead(addr, 1)` of R52; `none` where it raises OutOfRange(addr). -/
def Memory.read (f : Config.Font) (m : Memory) (a : Nat) : Option Byte :=
  if inRange a then some (m.byteAt f a) else none

/-- `MemWrite(addr, 1, v)` of R52; `none` where it raises OutOfRange(addr). -/
def Memory.write (f : Config.Font) (m : Memory) (a : Nat) (x : Byte) : Option Memory :=
  if inRange a then some (m.put f a x) else none

/-- Are the `n` ascending addresses from `base` all cells? None are accessed when `n = 0` (R176, R191). -/
def rangeInBounds (base n : Nat) : Bool := decide (n = 0 ∨ base + n ≤ Config.memSize)

/-- The lowest out-of-range address of an ascending range from `base` that leaves memory (R176, R254). -/
def lowestBadAddress (base : Nat) : Nat := max base Config.memSize

/-- The `n` bytes from `base` upwards, without the range check. -/
def Memory.bytesFrom (f : Config.Font) (m : Memory) (base : Nat) : Nat → List Byte
  | 0 => []
  | n + 1 => m.byteAt f base :: Memory.bytesFrom f m (base + 1) n

/-- Store bytes at ascending addresses from `base`, without the range check (R55). -/
def Memory.putBytes (f : Config.Font) : Memory → Nat → List Byte → Memory
  | m, _, [] => m
  | m, base, x :: xs => Memory.putBytes f (m.put f base x) (base + 1) xs

/-- The canonical form: addresses strictly rising, each below 4096, no cell equal to what it reads as unlisted. -/
abbrev Memory.wf (f : Config.Font) (m : Memory) : Prop :=
  m.Pairwise (fun p q => p.1 < q.1) ∧ ∀ c ∈ m, c.1 < Config.memSize ∧ c.2 ≠ resetByte f c.1

/-- The cell `MEM[a]` of a state, without the range check. -/
def State.byteAt (s : State) (a : Nat) : Byte := s.mem.byteAt s.font a

end Sys2Proof.Machine
end

