-- ==== Sys2Proof/Machine/Ops.lean ====
section
/-! DEFINITION. The shared operations: register access, the PC policy (40_fetch_dispatch.md R104), raising a fatal
condition (60_exceptions.md R257), reporting an invalid opcode (R105), the fetch (R102) and the timer tick (R213). -/

namespace Sys2Proof.Machine

/-! ### One field at a time -/

/-- `V[r]` (R20). -/
def State.reg (s : State) (r : Reg) : Byte := s.regs[r.val]

/-- `V[r] <- x` (R20). -/
def State.setReg (s : State) (r : Reg) (x : Byte) : State := { s with regs := s.regs.set r.val x }

/-- Replace the register file (REGISTER-LOAD). -/
def State.setRegs (s : State) (v : Vector Byte 16) : State := { s with regs := v }

/-- `I <- w` (R22). -/
def State.setIndex (s : State) (w : Word) : State := { s with index := w }

/-- `pc <- w` (R23). -/
def State.setPc (s : State) (w : Word) : State := { s with pc := w }

/-- `SP <- n` (R24). -/
def State.setSp (s : State) (n : Fin 17) : State := { s with sp := n }

/-- `STK[n]` (R25). -/
def State.slot (s : State) (n : Fin 16) : Word := s.stack[n.val]

/-- `STK[n] <- w` (R25). -/
def State.setSlot (s : State) (n : Fin 16) (w : Word) : State := { s with stack := s.stack.set n.val w }

/-- `DT <- x` (R26). -/
def State.setDt (s : State) (x : Byte) : State := { s with dt := x }

/-- `ST <- x` (R27). -/
def State.setSt (s : State) (x : Byte) : State := { s with st := x }

/-- Replace MEM. -/
def State.setMem (s : State) (m : Memory) : State := { s with mem := m }

/-- Replace D. -/
def State.setDisplay (s : State) (d : Display) : State := { s with display := d }

/-- `K[k]` (R31). -/
def State.key (s : State) (k : Fin 16) : Bool := s.keys[k.val]

/-- `K[k] <- b`; only the host does this (R31, R225). -/
def State.setKey (s : State) (k : Fin 16) (b : Bool) : State := { s with keys := s.keys.set k.val b }

/-- Replace STATUS. -/
def State.setStatus (s : State) (r : Status) : State := { s with status := r }

/-- Emit one report, after those already emitted (R35). -/
def State.addReport (s : State) (r : Report) : State := { s with reports := s.reports ++ [r] }

/-- The byte the next draw takes (R152; log entry 1). -/
def State.nextDraw (s : State) : Byte := Config.draw s.drawCount

/-- One draw has been taken (R152). -/
def State.countDraw (s : State) : State := { s with drawCount := s.drawCount + 1 }

/-! ### The PC policy (R104, R9) -/

/-- `next`: past this instruction. -/
def State.nextPc (s : State) : Word := s.pc + 2

/-- `skip`: past this instruction and the one after it. -/
def State.skipPc (s : State) : Word := s.pc + 4

/-- `pc <- next`, the default policy. -/
def State.advance (s : State) : State := s.setPc s.nextPc

/-- `pc <- skip` if the skip condition holds, else `pc <- next`. -/
def State.skipIf (s : State) (holds : Bool) : State := s.setPc (if holds then s.skipPc else s.nextPc)

/-! ### The fatal conditions and the report -/

/-- `raise <Cause>(info)` (R257): entry into the halted state. The first record is kept; otherwise STATUS takes the
cause, the PC the operation began with, the fetched word and the address, and nothing else changes (R258). -/
def State.raise (s : State) (cause : Cause) (op : Option Word) (addr : Option Nat) : State :=
  if s.status.halted then s
  else s.setStatus { halted := true, cause := cause, errPc := s.pc, errOp := op, errAddr := addr }

/-- The codes of the fatal conditions in the table of R250; an invalid opcode, which is reported and not fatal, is 1. -/
def Cause.code : Cause → Option Nat
  | .none => Option.none
  | .stackOverflow => some 2
  | .stackUnderflow => some 3
  | .outOfRange => some 4

/-- The code of a report in the table of R250. -/
def Report.code (_ : Report) : Nat := 1

/-- StackOverflow, raised by the CALL `i` (R252). -/
def State.raiseStackOverflow (s : State) (i : Instr) : State := s.raise .stackOverflow (some (encode i)) Option.none

/-- StackUnderflow, raised by the RET `i` (R253). -/
def State.raiseStackUnderflow (s : State) (i : Instr) : State := s.raise .stackUnderflow (some (encode i)) Option.none

/-- OutOfRange of an access at I, I + 1, ... by the instruction `i` (R254). -/
def State.raiseIndexRange (s : State) (i : Instr) : State :=
  s.raise .outOfRange (some (encode i)) (some (lowestBadAddress s.index.toNat))

/-- OutOfRange of a fetch or of a host access: no instruction word is recorded (R254, R231). -/
def State.raiseNoWord (s : State) (addr : Nat) : State := s.raise .outOfRange Option.none (some addr)

/-- An invalid opcode: one report, `pc <- next`, and nothing else (R105, R251). -/
def State.invalidOpcode (s : State) (op : Word) : State := (s.addReport { op := op, pc := s.pc }).advance

/-! ### The fetch -/

/-- `MemRead(pc, 2)` (R102, R54): the word at PC and PC + 1, high byte first, or the lowest address of the two that is
out of range. -/
def State.fetch (s : State) : Except Nat Word :=
  match s.mem.read s.font s.pc.toNat with
  | none => .error s.pc.toNat
  | some high =>
    match s.mem.read s.font (s.pc.toNat + 1) with
    | none => .error (s.pc.toNat + 1)
    | some low => .ok (wordOfBytes high low)

/-- Store an instruction word where the fetch at PC reads it. -/
def State.placeWord (s : State) (op : Word) : State :=
  s.setMem (s.mem.putBytes s.font s.pc.toNat [highByte op, lowByte op])

/-! ### The timer tick -/

/-- A timer "counts down toward 0 and never wraps below 0" (R26, R213). -/
def countDown (x : Byte) : Byte := if x = 0 then 0 else x - 1

/-- TimerTick (R213): both timers step, nothing else changes. -/
def State.tick (s : State) : State := (s.setDt (countDown s.dt)).setSt (countDown s.st)

end Sys2Proof.Machine
end

