-- ==== Sys2Proof/Machine/Operands.lean ====
section
/-! DEFINITION. Operand forms: zero-extended addresses, V0-indexed targets, key indexes, glyph addresses, the decimal
digits of a byte, the block V[0]..V[x], and the range I, I + 1, ... (30_encoding.md R73, 43_memory_index.md R176). -/

namespace Sys2Proof.Machine

/-- `zext_16(nnn)` (R73). -/
def zext16 (nnn : Address) : Word := nnn.setWidth 16

/-- `(zext_16(nnn) + V[0]) mod 65536`: JUMP-INDEXED always uses V0, and the sum is not reduced to 12 bits (R127). -/
def State.indexedTarget (s : State) (nnn : Address) : Word := zext16 nnn + (s.reg 0).setWidth 16

/-- The key a byte names: its low four bits (R201; D12). -/
def keyIndex (b : Byte) : Fin 16 := Fin.ofNat 16 b.toNat

/-- The least index of a pressed key, if any is pressed (R203). -/
def State.lowestPressedKey (s : State) : Option Nat := s.keys.toList.findIdx? (fun pressed => pressed)

/-- The address of the glyph a byte names: the whole byte times 5 (R172; D13). -/
def glyphAddress (b : Byte) : Word := BitVec.ofNat 16 (b.toNat * Config.glyphBytes)

/-- The decimal digits of a byte, hundreds first, each a whole byte (R173). -/
def decimalDigits (b : Byte) : List Byte :=
  [BitVec.ofNat 8 (b.toNat / 100), BitVec.ofNat 8 (b.toNat / 10 % 10), BitVec.ofNat 8 (b.toNat % 10)]

/-- V[0], ..., V[x], inclusive: the block of REGISTER-DUMP (R174). -/
def State.regBlock (s : State) (x : Reg) : List Byte := s.regs.toList.take (x.val + 1)

/-- `V[r] <- b` for r = first, first + 1, ...: the writes of REGISTER-LOAD (R175). -/
def loadBlock : Vector Byte 16 → Nat → List Byte → Vector Byte 16
  | v, _, [] => v
  | v, r, b :: bs => loadBlock (v.setIfInBounds r b) (r + 1) bs

/-- Are the `n` bytes at I, I + 1, ... all in memory? The address is formed on natural numbers, without masking I
(R64, R53, R176). -/
def State.indexRangeOk (s : State) (n : Nat) : Bool := rangeInBounds s.index.toNat n

/-- The `n` bytes at I, I + 1, ... (R176). -/
def State.bytesAtIndex (s : State) (n : Nat) : List Byte := s.mem.bytesFrom s.font s.index.toNat n

/-- Store bytes at I, I + 1, ...; I is not modified (R176; D11). -/
def State.storeAtIndex (s : State) (bs : List Byte) : State := s.setMem (s.mem.putBytes s.font s.index.toNat bs)

end Sys2Proof.Machine
end

