-- ==== Sys2Proof/Machine/Flags.lean ====
section
/-! DEFINITION. Every flag computation (10_state.md R21, 42_arithmetic_logic.md R153) and the order of the result and
flag writes (R140). -/

namespace Sys2Proof.Machine

/-- A flag as VF holds it: exactly 0 or 1 (R21). -/
def flagByte (b : Bool) : Byte := if b then 1 else 0

/-- ADD: 1 exactly when a + b > 255 (R145). -/
def carryFlag (a b : Byte) : Bool := decide (a.toNat + b.toNat > 255)

/-- SUB and SUBN: not borrow, 1 exactly when a ≥ b (R146, R148). -/
def notBorrowFlag (a b : Byte) : Bool := decide (a.toNat ≥ b.toNat)

/-- SHR: the bit shifted out, bit 0 (R147). -/
def lowBitFlag (a : Byte) : Bool := a.getLsbD 0

/-- SHL: the bit shifted out, bit 7 (R149). -/
def highBitFlag (a : Byte) : Bool := a.getLsbD 7

/-- `V[x] <- result`, then `V[15] <- flag`, then `pc <- next`: the flag is written last, so with x = 15 VF ends holding
the flag (R140; D8). -/
def State.writeWithFlag (s : State) (x : Reg) (result : Byte) (flag : Bool) : State :=
  ((s.setReg x result).setReg regVF (flagByte flag)).advance

/-- `V[x] <- result`, `pc <- next`: no flag update (R141 to R144, R150, R151). -/
def State.writeNoFlag (s : State) (x : Reg) (result : Byte) : State := (s.setReg x result).advance

end Sys2Proof.Machine
end

