-- ==== Sys2Proof/Machine/Arithmetic.lean ====
section
/-! DEFINITION. Arithmetic and logic (42_arithmetic_logic.md). Operands are read before any write (R140). -/

namespace Sys2Proof.Machine

/-- `LD Vx, Vy` (R141). -/
def execLdReg (x y : Reg) (s : State) : Result := .next (s.writeNoFlag x (s.reg y))

/-- `OR Vx, Vy` (R142): VF is not reset. -/
def execOr (x y : Reg) (s : State) : Result := .next (s.writeNoFlag x (s.reg x ||| s.reg y))

/-- `AND Vx, Vy` (R143). -/
def execAnd (x y : Reg) (s : State) : Result := .next (s.writeNoFlag x (s.reg x &&& s.reg y))

/-- `XOR Vx, Vy` (R144). -/
def execXor (x y : Reg) (s : State) : Result := .next (s.writeNoFlag x (s.reg x ^^^ s.reg y))

/-- `ADD Vx, Vy` (R145). -/
def execAddReg (x y : Reg) (s : State) : Result :=
  .next (s.writeWithFlag x (s.reg x + s.reg y) (carryFlag (s.reg x) (s.reg y)))

/-- `SUB Vx, Vy` (R146). -/
def execSub (x y : Reg) (s : State) : Result :=
  .next (s.writeWithFlag x (s.reg x - s.reg y) (notBorrowFlag (s.reg x) (s.reg y)))

/-- `SHR Vx` (R147): shifts Vx in place; Vy is neither read nor written. -/
def execShr (x : Reg) (s : State) : Result := .next (s.writeWithFlag x (s.reg x >>> 1) (lowBitFlag (s.reg x)))

/-- `SUBN Vx, Vy` (R148): the destination is Vx. -/
def execSubn (x y : Reg) (s : State) : Result :=
  .next (s.writeWithFlag x (s.reg y - s.reg x) (notBorrowFlag (s.reg y) (s.reg x)))

/-- `SHL Vx` (R149): shifts Vx in place; Vy is neither read nor written. -/
def execShl (x : Reg) (s : State) : Result := .next (s.writeWithFlag x (s.reg x <<< 1) (highBitFlag (s.reg x)))

/-- `LD Vx, kk` (R150). -/
def execLdImm (x : Reg) (kk : Byte) (s : State) : Result := .next (s.writeNoFlag x kk)

/-- `ADD Vx, kk` (R151): no flag update, even when the sum exceeds 255. -/
def execAddImm (x : Reg) (kk : Byte) (s : State) : Result := .next (s.writeNoFlag x (s.reg x + kk))

/-- `RND Vx, kk` (R152): a draw, any byte, AND the mask; one draw is consumed (D18; log entry 1). -/
def execRnd (x : Reg) (kk : Byte) (s : State) : Result := .next (s.countDraw.writeNoFlag x (s.nextDraw &&& kk))

end Sys2Proof.Machine
end

