-- ==== Sys2Proof/Machine/ControlFlow.lean ====
section
/-! DEFINITION. Control flow (41_control_flow.md). -/

namespace Sys2Proof.Machine

/-- `JP nnn` (R120): no default advance is added. -/
def execJp (nnn : Address) (s : State) : Result := .next (s.setPc (zext16 nnn))

/-- `CALL nnn` (R121): push `next`, the address of the instruction after the CALL (D7, C2); StackOverflow when SP = 16. -/
def execCall (nnn : Address) (s : State) : Result :=
  if h : s.sp.val = 16 then .next (s.raiseStackOverflow (.call nnn))
  else
    .next (((s.setSlot ⟨s.sp.val, by omega⟩ s.nextPc).setSp ⟨s.sp.val + 1, by omega⟩).setPc (zext16 nnn))

/-- `RET` (R122): pop; the slot is left as it is; StackUnderflow when SP = 0. -/
def execRet (s : State) : Result :=
  if h : s.sp.val = 0 then .next (s.raiseStackUnderflow .ret)
  else
    .next ((s.setSp ⟨s.sp.val - 1, by omega⟩).setPc (s.slot ⟨s.sp.val - 1, by omega⟩))

/-- `SE Vx, kk` (R123). -/
def execSeImm (x : Reg) (kk : Byte) (s : State) : Result := .next (s.skipIf (s.reg x == kk))

/-- `SNE Vx, kk` (R124). -/
def execSneImm (x : Reg) (kk : Byte) (s : State) : Result := .next (s.skipIf (s.reg x != kk))

/-- `SE Vx, Vy` (R125). -/
def execSeReg (x y : Reg) (s : State) : Result := .next (s.skipIf (s.reg x == s.reg y))

/-- `SNE Vx, Vy` (R126). -/
def execSneReg (x y : Reg) (s : State) : Result := .next (s.skipIf (s.reg x != s.reg y))

/-- `JP V0, nnn` (R127). -/
def execJpV0 (nnn : Address) (s : State) : Result := .next (s.setPc (s.indexedTarget nnn))

end Sys2Proof.Machine
end

