-- ==== Sys2Proof/Machine/Display.lean ====
section
/-! DEFINITION. The display (44_display.md): pixels, the XOR draw with wrap-around and collision, CLEAR. -/

namespace Sys2Proof.Machine

/-- `D[cx, cy]` (R30). -/
def Display.pixel (d : Display) (cx : Fin 64) (cy : Fin 32) : Bool := d[cy.val][cx.val]

/-- `D[cx, cy] <- D[cx, cy] ^ 1` (R191). -/
def Display.toggle (d : Display) (cx : Fin 64) (cy : Fin 32) : Display :=
  d.set cy.val (d[cy.val].set cx.val (!d[cy.val][cx.val]))

/-- The grid with every pixel unset (R192). -/
def Display.blank : Display := Vector.replicate 32 (Vector.replicate 64 false)

/-- The column a sprite's c-th pixel lands on: modulo 64 (R190). -/
def pixelColumn (vx : Byte) (c : Nat) : Fin 64 := Fin.ofNat 64 (vx.toNat % 64 + c)

/-- The display row a sprite's r-th row lands on: modulo 32 (R190; C3). -/
def pixelRow (vy : Byte) (r : Nat) : Fin 32 := Fin.ofNat 32 (vy.toNat % 32 + r)

/-- The c-th pixel of a sprite row, "most-significant bit first": `b[7 - c]` (R190). -/
def spriteBit (b : Byte) (c : Nat) : Bool := b.getLsbD (7 - c)

/-- A display being drawn on, and whether a pixel has gone from set to unset so far. -/
structure Canvas where
  display : Display
  collision : Bool
deriving DecidableEq, Repr

/-- One pixel of the sprite: a set sprite bit toggles its pixel, and a set pixel it unsets is a collision; a clear
sprite bit does nothing (R191). -/
def Canvas.drawPixel (k : Canvas) (bit : Bool) (cx : Fin 64) (cy : Fin 32) : Canvas :=
  if bit then { display := k.display.toggle cx cy, collision := k.collision || k.display.pixel cx cy } else k

/-- The eight pixels of one sprite row, c = 0, 1, ..., 7 (R191). -/
def Canvas.drawRow (k : Canvas) (vx vy b : Byte) (r : Nat) : Canvas :=
  (List.range 8).foldl (fun k c => k.drawPixel (spriteBit b c) (pixelColumn vx c) (pixelRow vy r)) k

/-- The rows of a sprite, from row r on (R191). -/
def Canvas.drawRows (vx vy : Byte) : Canvas → Nat → List Byte → Canvas
  | k, _, [] => k
  | k, r, b :: bs => Canvas.drawRows vx vy (k.drawRow vx vy b r) (r + 1) bs

/-- A whole sprite on a display, with no collision before its first pixel (R191). -/
def Display.drawSprite (d : Display) (vx vy : Byte) (sprite : List Byte) : Canvas :=
  Canvas.drawRows vx vy { display := d, collision := false } 0 sprite

/-- `CLS` (R192). -/
def execCls (s : State) : Result := .next ((s.setDisplay Display.blank).advance)

/-- `DRW Vx, Vy, n` (R191): V[x] and V[y] are read before VF is touched (D9); with n = 0 nothing is read or drawn and VF
becomes 0 (D35); the range I..I+n-1 is checked first, and a failing DRW changes nothing but STATUS. -/
def execDrw (x y : Reg) (n : Nat) (s : State) : Result :=
  if s.indexRangeOk n then
    let drawn := s.display.drawSprite (s.reg x) (s.reg y) (s.bytesAtIndex n)
    .next (((s.setDisplay drawn.display).setReg regVF (flagByte drawn.collision)).advance)
  else .next (s.raiseIndexRange (.drw x y n))

end Sys2Proof.Machine
end

