-- ==== Sys2Proof/Machine/Input.lean ====
section
/-! DEFINITION. Input (45_input.md): the key flags are levels, read only by these three instructions (R200). -/

namespace Sys2Proof.Machine

/-- `SKP Vx` (R201). -/
def execSkp (x : Reg) (s : State) : Result := .next (s.skipIf (s.key (keyIndex (s.reg x))))

/-- `SKNP Vx` (R202). -/
def execSknp (x : Reg) (s : State) : Result := .next (s.skipIf (!s.key (keyIndex (s.reg x))))

/-- `LD Vx, K` (R203): with no key pressed the cycle changes nothing and PC stays (R107); else Vx is the least index of
a pressed key. -/
def execLdVxK (x : Reg) (s : State) : Result :=
  match s.lowestPressedKey with
  | none => .next s
  | some k => .next (s.writeNoFlag x (BitVec.ofNat 8 k))

end Sys2Proof.Machine
end

