-- ==== Sys2Proof/Machine/MemoryIndex.lean ====
section
/-! DEFINITION. Memory and index instructions (43_memory_index.md). The whole range is checked before any write (R176). -/

namespace Sys2Proof.Machine

/-- `LD I, nnn` (R170). -/
def execLdI (nnn : Address) (s : State) : Result := .next ((s.setIndex (zext16 nnn)).advance)

/-- `ADD I, Vx` (R171): modulo 65536, not reduced to 12 bits, VF unchanged (D10). -/
def execAddI (x : Reg) (s : State) : Result := .next ((s.setIndex (s.index + (s.reg x).setWidth 16)).advance)

/-- `LD F, Vx` (R172). -/
def execLdF (x : Reg) (s : State) : Result := .next ((s.setIndex (glyphAddress (s.reg x))).advance)

/-- `LD B, Vx` (R173). -/
def execLdB (x : Reg) (s : State) : Result :=
  if s.indexRangeOk 3 then .next ((s.storeAtIndex (decimalDigits (s.reg x))).advance)
  else .next (s.raiseIndexRange (.ldB x))

/-- `LD [I], Vx` (R174): the operand is the register number x; x + 1 registers are stored. -/
def execLdMemVx (x : Reg) (s : State) : Result :=
  if s.indexRangeOk (x.val + 1) then .next ((s.storeAtIndex (s.regBlock x)).advance)
  else .next (s.raiseIndexRange (.ldMemVx x))

/-- `LD Vx, [I]` (R175): x + 1 registers are loaded. -/
def execLdVxMem (x : Reg) (s : State) : Result :=
  if s.indexRangeOk (x.val + 1) then
    .next ((s.setRegs (loadBlock s.regs 0 (s.bytesAtIndex (x.val + 1)))).advance)
  else .next (s.raiseIndexRange (.ldVxMem x))

end Sys2Proof.Machine
end

