-- ==== Sys2Proof/Machine/Timers.lean ====
section
/-! DEFINITION. The timer instructions (46_timers.md). -/

namespace Sys2Proof.Machine

/-- `LD Vx, DT` (R210). -/
def execLdVxDt (x : Reg) (s : State) : Result := .next (s.writeNoFlag x s.dt)

/-- `LD DT, Vx` (R211). -/
def execLdDtVx (x : Reg) (s : State) : Result := .next ((s.setDt (s.reg x)).advance)

/-- `LD ST, Vx` (R212). -/
def execLdStVx (x : Reg) (s : State) : Result := .next ((s.setSt (s.reg x)).advance)

end Sys2Proof.Machine
end

