-- ==== Sys2Proof/Machine/Cycle.lean ====
section
/-! DEFINITION. RunCycle, the engine's one step (40_fetch_dispatch.md R100 to R108). -/

namespace Sys2Proof.Machine

/-- The end of a cycle that was not the halted no-op: under `perCycle` one TimerTick, after the instruction's own effect,
whatever that effect was (R108, R214; D16; log entry 7). -/
def State.closeCycle (s : State) : State :=
  match s.coupling with
  | .external => s
  | .perCycle => s.tick

/-- The end of a cycle, applied to what the instruction answered. -/
def closeResult : Result → Result
  | .next s => .next s.closeCycle
  | .fault r => .fault r
  | .refused r => .refused r

/-- Decode and dispatch of a fetched word (R103); a word that matches no row is reported and skipped (R105). -/
def State.dispatchWord (s : State) (op : Word) : Result :=
  match decodeWord op with
  | .ok i => exec i s
  | .error _ => .next (s.invalidOpcode op)

/-- RunCycle: halted test (R101), fetch (R102), decode and handler, in that order (R106). -/
def runCycle (s : State) : Result :=
  if s.status.halted then .next s
  else
    match s.fetch with
    | .error addr => closeResult (.next (s.raiseNoWord addr))
    | .ok op => closeResult (s.dispatchWord op)

/-- `s` made ready to fetch: not halted, and PC where both bytes of a word are in memory. A state that is already so is
unchanged. -/
def State.readyToFetch (s : State) : State :=
  let s := if s.status.halted then s.setStatus Status.clear else s
  if s.pc.toNat + 1 < Config.memSize then s else s.setPc (BitVec.ofNat 16 Config.progBase)

end Sys2Proof.Machine
end

