-- ==== Sys2Proof/Machine/Step.lean ====
section
/-! DEFINITION. The machine's step is RunCycle (00_scope.md R7), and where the step fetches its next instruction. -/

namespace Sys2Proof.Machine

/-- One step of the engine is one RunCycle (R7, R222). -/
def step (s : State) : Host.Outcome State Fault Refusal := runCycle s

/-- `s` with the instruction word `w` (its low `nbits` bits) stored at PC, so that the next step fetches and runs it: a
program comes to run by being written into memory at PC, as the loader does (R224; log entry 6). -/
def State.withFetchWord (s : State) (nbits w : Nat) : State :=
  s.readyToFetch.placeWord (BitVec.ofNat 16 (w % 2 ^ nbits))

end Sys2Proof.Machine
end

