-- ==== Sys2Proof/Machine/Operations.lean ====
section
/-! DEFINITION. The operations the engine offers its host (47_host_interface.md R220 to R234): an execution is a sequence
of them in the order the host issues them. -/

namespace Sys2Proof.Machine

/-- The operations of R220. Arguments are numbers, so that one outside its range can be given (R231). -/
inductive Operation where
  /-- R221 -/
  | reset
  /-- R222 -/
  | runCycle
  /-- R223, R213 -/
  | timerTick
  /-- R224 -/
  | loadImage (bytes : List Byte)
  /-- R225 -/
  | setKey (k b : Nat)
  | getKey (k : Nat)
  /-- R226 -/
  | setV (r v : Nat)
  | getV (r : Nat)
  | setI (v : Nat)
  | getI
  | setPC (v : Nat)
  | getPC
  /-- R227 -/
  | setMem (a v : Nat)
  | getMem (a : Nat)
  /-- R228 -/
  | getPixel (cx cy : Nat)
  /-- R229 -/
  | setSP (v : Nat)
  | getSP
  | setStack (k v : Nat)
  | getStack (k : Nat)
  /-- R230 -/
  | setDT (v : Nat)
  | getDT
  | setST (v : Nat)
  | getST
  /-- R232 -/
  | getStatus
  | getReports
deriving DecidableEq, Repr

/-- What an operation answers the host. -/
inductive Reply where
  /-- The operation had its effect and has no value. -/
  | done
  /-- The value of a register, cell, slot or timer. -/
  | number (n : Nat)
  /-- The value of a key flag or pixel. -/
  | flag (b : Bool)
  /-- STATUS. -/
  | status (r : Status)
  /-- The reports emitted so far, in order. -/
  | reports (rs : List Report)
  /-- A memory access out of range: the fatal condition OutOfRange (R231). -/
  | outOfRange
  /-- Any other argument out of range: no effect, the engine is not halted (R231; D19). -/
  | refused
deriving DecidableEq, Repr

/-- Reset as an operation (R221): every piece of the spec's state takes its reset value; the machine keeps its
parameters, and the draws already taken stay taken (log entries 1, 3, 4). -/
def State.resetMachine (s : State) : State :=
  { State.resetWith s.font s.coupling with drawCount := s.drawCount }

/-- A mutator: its effect if its arguments are in range, else refused (R231). -/
def State.mutate (s : State) (ok : Bool) (t : State) : State × Reply := if ok then (t, .done) else (s, .refused)

/-- An accessor: its value if its argument is in range, else refused (R231). It changes nothing. -/
def State.answer (s : State) (ok : Bool) (r : Reply) : State × Reply := if ok then (s, r) else (s, .refused)

/-- LoadImage (R224): the bytes at 0x200, 0x201, ...; a longer image than 3584 bytes writes nothing and is OutOfRange at
4096 (D22). -/
def State.loadImage (s : State) (bytes : List Byte) : State × Reply :=
  if bytes.length ≤ Config.maxImage then (s.setMem (s.mem.putBytes s.font Config.progBase bytes), .done)
  else (s.raiseNoWord Config.memSize, .outOfRange)

/-- SetMem(a, v) (R227, R231). -/
def State.hostStore (s : State) (a v : Nat) : State × Reply :=
  if v < 256 then
    match s.mem.write s.font a (BitVec.ofNat 8 v) with
    | some m => (s.setMem m, .done)
    | none => (s.raiseNoWord a, .outOfRange)
  else (s, .refused)

/-- GetMem(a) (R227, R231). -/
def State.hostLoad (s : State) (a : Nat) : State × Reply :=
  match s.mem.read s.font a with
  | some x => (s, .number x.toNat)
  | none => (s.raiseNoWord a, .outOfRange)

/-- One operation of the host: the state after it and its answer. Every operation is atomic (R220). -/
def perform (o : Operation) (s : State) : Host.Outcome (State × Reply) Fault Refusal :=
  match o with
  | .reset => .next (s.resetMachine, .done)
  | .runCycle =>
    match step s with
    | .next t => .next (t, .done)
    | .fault r => .fault r
    | .refused r => .refused r
  | .timerTick => .next (s.tick, .done)
  | .loadImage bytes => .next (s.loadImage bytes)
  | .setKey k b => .next (s.mutate (k < 16 && b < 2) (s.setKey (Fin.ofNat 16 k) (b == 1)))
  | .getKey k => .next (s.answer (k < 16) (.flag (s.key (Fin.ofNat 16 k))))
  | .setV r v => .next (s.mutate (r < 16 && v < 256) (s.setReg (Fin.ofNat 16 r) (BitVec.ofNat 8 v)))
  | .getV r => .next (s.answer (r < 16) (.number (s.reg (Fin.ofNat 16 r)).toNat))
  | .setI v => .next (s.mutate (v < 65536) (s.setIndex (BitVec.ofNat 16 v)))
  | .getI => .next (s, .number s.index.toNat)
  | .setPC v => .next (s.mutate (v < 65536) (s.setPc (BitVec.ofNat 16 v)))
  | .getPC => .next (s, .number s.pc.toNat)
  | .setMem a v => .next (s.hostStore a v)
  | .getMem a => .next (s.hostLoad a)
  | .getPixel cx cy => .next (s.answer (cx < 64 && cy < 32) (.flag (s.display.pixel (Fin.ofNat 64 cx) (Fin.ofNat 32 cy))))
  | .setSP v => .next (s.mutate (v < 17) (s.setSp (Fin.ofNat 17 v)))
  | .getSP => .next (s, .number s.sp.val)
  | .setStack k v => .next (s.mutate (k < 16 && v < 65536) (s.setSlot (Fin.ofNat 16 k) (BitVec.ofNat 16 v)))
  | .getStack k => .next (s.answer (k < 16) (.number (s.slot (Fin.ofNat 16 k)).toNat))
  | .setDT v => .next (s.mutate (v < 256) (s.setDt (BitVec.ofNat 8 v)))
  | .getDT => .next (s, .number s.dt.toNat)
  | .setST v => .next (s.mutate (v < 256) (s.setSt (BitVec.ofNat 8 v)))
  | .getST => .next (s, .number s.st.toNat)
  | .getStatus => .next (s, .status s.status)
  | .getReports => .next (s, .reports s.reports)

/-- An execution: the operations in the order the host issues them (R220). -/
def performAll : List Operation → State → Result
  | [], s => .next s
  | o :: os, s =>
    match perform o s with
    | .next (t, _) => performAll os t
    | .fault r => .fault r
    | .refused r => .refused r

/-- Restore by the listed mutators alone (R233): Reset, then every piece of `s` that a mutator can write. -/
def State.restoreOperations (s : State) : List Operation :=
  [.reset, .setI s.index.toNat, .setPC s.pc.toNat, .setSP s.sp.val, .setDT s.dt.toNat, .setST s.st.toNat]
    ++ (List.range 16).map (fun r => .setV r (s.reg (Fin.ofNat 16 r)).toNat)
    ++ (List.range 16).map (fun k => .setStack k (s.slot (Fin.ofNat 16 k)).toNat)
    ++ (List.range 16).map (fun k => .setKey k (s.key (Fin.ofNat 16 k)).toNat)
    ++ (List.range Config.memSize).map (fun a => .setMem a (s.byteAt a).toNat)

end Sys2Proof.Machine
end

