-- ==== Sys2Proof/Safety.lean ====
section
/-! DEFINITION. What counts as a good state and a good run (60_exceptions.md R259, 70_reset_and_hazards.md R290). -/

namespace Sys2Proof.Machine

/-- No fatal condition has been met: "A model's safety predicate should be STATUS.halted = 0" (R259). -/
abbrev State.safe (s : State) : Prop := s.status.halted = false

/-- And no invalid opcode has been reported (R251, R259). -/
abbrev State.clean (s : State) : Prop := s.safe ∧ s.reports = []

/-- STATUS as the conditions of R252 to R254 leave it: clear while not halted; else a cause, with the word of a CALL or
of RET for the stack causes and no address, and an address above 4095 for OutOfRange (R34). -/
abbrev Status.wf (r : Status) : Prop :=
  (r.halted = false → r = Status.clear) ∧
  (r.halted = true → r.cause ≠ .none) ∧
  (r.cause = .stackOverflow → (r.errOp.map familyField) = some 0x2#4 ∧ r.errAddr = Option.none) ∧
  (r.cause = .stackUnderflow → r.errOp = some 0x00EE#16 ∧ r.errAddr = Option.none) ∧
  (r.cause = .outOfRange → (r.errAddr.map (fun a => decide (Config.memSize ≤ a))) = some true)

/-- A report names a word that no row of R79 matches, and an address a word was fetched from (R251, R102). -/
abbrev Report.wf (r : Report) : Prop :=
  decodeWord r.op = .error (.invalidOpcode r.op) ∧ r.pc.toNat + 1 < Config.memSize

/-- The invariant of the machine (R38): memory in its canonical form, STATUS and every report as their rules say. The
ranges of R38 for V, I, PC, SP, STK, DT, ST, D, K hold by the types of the fields. -/
abbrev State.Inv (s : State) : Prop := s.mem.wf s.font ∧ s.status.wf ∧ ∀ r ∈ s.reports, r.wf

/-- "finished when PC holds the address of a JP to itself (1nnn with nnn = PC) and STATUS.halted = 0" (R290; D31). -/
abbrev State.finished (s : State) : Prop :=
  s.safe ∧ ∃ nnn : Address, s.fetch = .ok (encode (.jp nnn)) ∧ s.pc = zext16 nnn

end Sys2Proof.Machine
end

