-- ==== Sys2Proof/Certificates/Slice0/Obligations.lean ====
section
/-! DEFINITION. The statements for the provers, `Obligations.<Name>`, and the words they are written in. Where a statement
names an opcode number, the number is R79's: the spec supplies all but those of 7xkk and Annn from general knowledge (log
entry 8). -/

namespace Sys2Proof.Machine

/-- Parts of the state other than PC, the general registers and what no completing instruction writes. -/
inductive Part where
  | index
  | stack
  | delay
  | sound
  | memory
  | display
  | draws
deriving DecidableEq, Repr

/-- The frame of an instruction that completes: only the general registers `regs` selects, the parts listed and PC may
differ between `s` and `t`. Keys, STATUS, the reports and the parameters never differ. -/
structure ChangesOnly (regs : Reg → Prop) (parts : List Part) (s t : State) : Prop where
  regs_kept : ∀ r, ¬ regs r → t.reg r = s.reg r
  index_kept : Part.index ∉ parts → t.index = s.index
  stack_kept : Part.stack ∉ parts → t.sp = s.sp ∧ ∀ k, t.slot k = s.slot k
  delay_kept : Part.delay ∉ parts → t.dt = s.dt
  sound_kept : Part.sound ∉ parts → t.st = s.st
  memory_kept : Part.memory ∉ parts → ∀ a, t.byteAt a = s.byteAt a
  display_kept : Part.display ∉ parts → ∀ cx cy, t.display.pixel cx cy = s.display.pixel cx cy
  draws_kept : Part.draws ∉ parts → t.drawCount = s.drawCount
  keys_kept : ∀ k, t.key k = s.key k
  status_kept : t.status = s.status
  reports_kept : t.reports = s.reports
  coupling_kept : t.coupling = s.coupling
  font_kept : t.font = s.font

/-- No general register. -/
def noReg : Reg → Prop := fun _ => False

/-- The general registers an instruction names as destinations: x, or V[0]..V[x] for REGISTER-LOAD. -/
def destinations : Instr → Reg → Prop
  | .ldImm x _, r | .addImm x _, r | .ldReg x _, r | .orReg x _, r | .andReg x _, r | .xorReg x _, r
  | .addReg x _, r | .subReg x _, r | .shr x _, r | .subnReg x _, r | .shl x _, r | .rnd x _, r
  | .ldVxDt x, r | .ldVxK x, r => r = x
  | .ldVxMem x, r => r ≤ x
  | .cls, _ | .ret, _ | .jp _, _ | .call _, _ | .seImm _ _, _ | .sneImm _ _, _ | .seReg _ _ _, _
  | .sneReg _ _ _, _ | .ldI _, _ | .jpV0 _, _ | .drw _ _ _, _ | .skp _ _, _ | .sknp _ _, _ | .ldDtVx _, _
  | .ldStVx _, _ | .addI _, _ | .ldF _, _ | .ldB _, _ | .ldMemVx _, _ => False

/-- The six instructions that write VF as a flag (R21). -/
def definesFlag : Instr → Prop
  | .addReg _ _ | .subReg _ _ | .shr _ _ | .subnReg _ _ | .shl _ _ | .drw _ _ _ => True
  | .cls | .ret | .jp _ | .call _ | .seImm _ _ | .sneImm _ _ | .seReg _ _ _ | .ldImm _ _ | .addImm _ _
  | .ldReg _ _ | .orReg _ _ | .andReg _ _ | .xorReg _ _ | .sneReg _ _ _ | .ldI _ | .jpV0 _ | .rnd _ _
  | .skp _ _ | .sknp _ _ | .ldVxDt _ | .ldVxK _ | .ldDtVx _ | .ldStVx _ | .addI _ | .ldF _ | .ldB _
  | .ldMemVx _ | .ldVxMem _ => False

/-- STATUS after the first fatal condition of an operation that began with PC = `pc` (R34, R257). -/
def haltedWith (cause : Cause) (pc : Word) (op : Option Word) (addr : Option Nat) : Status :=
  { halted := true, cause := cause, errPc := pc, errOp := op, errAddr := addr }

/-- The instructions that access memory at I, and how many bytes each accesses (R59, R176). -/
def indexBytes : Instr → Option Nat
  | .drw _ _ n => some n
  | .ldB _ => some 3
  | .ldMemVx x | .ldVxMem x => some (x.val + 1)
  | .cls | .ret | .jp _ | .call _ | .seImm _ _ | .sneImm _ _ | .seReg _ _ _ | .ldImm _ _ | .addImm _ _
  | .ldReg _ _ | .orReg _ _ | .andReg _ _ | .xorReg _ _ | .addReg _ _ | .subReg _ _ | .shr _ _ | .subnReg _ _
  | .shl _ _ | .sneReg _ _ _ | .ldI _ | .jpV0 _ | .rnd _ _ | .skp _ _ | .sknp _ _ | .ldVxDt _ | .ldVxK _
  | .ldDtVx _ | .ldStVx _ | .addI _ | .ldF _ => none

/-- The PC after an instruction that completes in `s`, by its class in the table of R104. -/
def pcPolicy (s : State) : Instr → Word → Prop
  | .cls, p | .ldImm _ _, p | .addImm _ _, p | .ldReg _ _, p | .orReg _ _, p | .andReg _ _, p | .xorReg _ _, p
  | .addReg _ _, p | .subReg _ _, p | .shr _ _, p | .subnReg _ _, p | .shl _ _, p | .ldI _, p | .rnd _ _, p
  | .drw _ _ _, p | .ldVxDt _, p | .ldDtVx _, p | .ldStVx _, p | .addI _, p | .ldF _, p | .ldB _, p
  | .ldMemVx _, p | .ldVxMem _, p => p.toNat = (s.pc.toNat + 2) % 65536
  | .seImm x kk, p => p.toNat = (if s.reg x = kk then s.pc.toNat + 4 else s.pc.toNat + 2) % 65536
  | .sneImm x kk, p => p.toNat = (if s.reg x ≠ kk then s.pc.toNat + 4 else s.pc.toNat + 2) % 65536
  | .seReg x y _, p => p.toNat = (if s.reg x = s.reg y then s.pc.toNat + 4 else s.pc.toNat + 2) % 65536
  | .sneReg x y _, p => p.toNat = (if s.reg x ≠ s.reg y then s.pc.toNat + 4 else s.pc.toNat + 2) % 65536
  | .skp x _, p => p.toNat = (if s.key (keyIndex (s.reg x)) = true then s.pc.toNat + 4 else s.pc.toNat + 2) % 65536
  | .sknp x _, p => p.toNat = (if s.key (keyIndex (s.reg x)) = false then s.pc.toNat + 4 else s.pc.toNat + 2) % 65536
  | .jp nnn, p | .call nnn, p => p.toNat = nnn.toNat
  | .ret, p => ∃ k : Fin 16, s.sp.val = k.val + 1 ∧ p = s.slot k
  | .jpV0 nnn, p => p.toNat = nnn.toNat + (s.reg 0).toNat
  | .ldVxK _, p => if ∃ k, s.key k = true then p.toNat = (s.pc.toNat + 2) % 65536 else p = s.pc

/-- The column and row that pixel (c, r) of a sprite drawn at (vx, vy) lands on (R190). -/
def landsOn (vx vy : Byte) (c r : Nat) (cx : Fin 64) (cy : Fin 32) : Prop :=
  cx.val = (vx.toNat + c) % 64 ∧ cy.val = (vy.toNat + r) % 32

/-- Bit 7 - c of the sprite byte at I + r: pixel (c, r) of the sprite (R190). -/
def spritePixel (s : State) (c r : Nat) : Bool := (s.byteAt (s.index.toNat + r)).getLsbD (7 - c)

end Sys2Proof.Machine

open Sys2Proof Sys2Proof.Machine

/-! ### Encoding -/

/-- Eleven words written out from the patterns of R79, the source's two examples among them, decode to their instructions
(log entry 8), and the word 0000 is invalid (decision D26). That 5127 and E29E decode at all is decision D3, and that their
terms hold the ignored nibbles 7 and 9 is the model's choice (log entry 9). -/
def Obligations.SpecWordsDecodeAsWritten : Prop :=
  decodeWord 0x7105#16 = .ok (.addImm 1 5#8) ∧ decodeWord 0xA553#16 = .ok (.ldI 0x553#12) ∧
  decodeWord 0x00E0#16 = .ok .cls ∧ decodeWord 0x00EE#16 = .ok .ret ∧ decodeWord 0x2ABC#16 = .ok (.call 0xABC#12) ∧
  decodeWord 0x8124#16 = .ok (.addReg 1 2) ∧ decodeWord 0xD125#16 = .ok (.drw 1 2 5) ∧
  decodeWord 0x5127#16 = .ok (.seReg 1 2 7#4) ∧ decodeWord 0xE29E#16 = .ok (.skp 2 9#4) ∧
  decodeWord 0xF218#16 = .ok (.ldStVx 2) ∧ decodeWord 0xF255#16 = .ok (.ldMemVx 2) ∧
  decodeWord 0x0000#16 = .error (.invalidOpcode 0x0000#16)

/-- Decoding the word of a well-formed instruction gives the instruction back, every operand bit kept; the ignored nibbles
of 5xy?, 9xy?, Ex?E, Ex?1 and the shifts are operands of the term by the model's choice (log entry 9). -/
def Obligations.DecodingAnEncodedInstructionGivesItBack : Prop :=
  ∀ i : Instr, i.wellFormed = true →
    decodeWord (encode i) = .ok i ∧
    ∀ rest, decodeBytes (highByte (encode i) :: lowByte (encode i) :: rest) = .ok (i, rest)

/-- A word that decodes decodes to a well-formed term whose word it is, no bit dropped. For words with ignored bits (5xy?,
9xy?, Ex?E, Ex?1, the shifts) this is the model's choice: it keeps the ignored nibble in the term, where the spec says only
that those bits do not change what the instruction does (log entry 9; R76, R77, R78, R81). -/
def Obligations.EncodingADecodedWordGivesItBack : Prop :=
  ∀ (op : Word) (i : Instr), decodeWord op = .ok i → encode i = op ∧ i.wellFormed = true

/-- "A word `op` selects row r exactly when `op & mask_r = match_r`; the rows are pairwise disjoint": the decoder accepts
a word as the instruction of a row exactly when the word selects the row, and no word selects two rows (R79). -/
def Obligations.DecoderFollowsTheOpcodeTable : Prop :=
  ∀ op : Word,
    (∀ i, decodeWord op = .ok i → ∃ r ∈ opcodeTable, r.mnemonic = i.mnemonic ∧ op &&& r.mask = r.pattern) ∧
    (∀ r ∈ opcodeTable, op &&& r.mask = r.pattern → ∃ i, decodeWord op = .ok i ∧ i.mnemonic = r.mnemonic) ∧
    (∀ r ∈ opcodeTable, ∀ q ∈ opcodeTable, op &&& r.mask = r.pattern → op &&& q.mask = q.pattern → r = q)

/-- The invalid words are exactly those of the table of R80 (with decisions D3 and D26 on families 0, 5, 9, E). -/
def Obligations.InvalidWordsAreThoseTheSpecLists : Prop :=
  ∀ op : Word, (decodeWord op = .error (.invalidOpcode op)) ↔
    (familyField op = 0x0#4 ∧ op ≠ 0x00E0#16 ∧ op ≠ 0x00EE#16) ∨
    (familyField op = 0x8#4 ∧ nField op ∈ [0x8#4, 0x9#4, 0xA#4, 0xB#4, 0xC#4, 0xD#4, 0xF#4]) ∨
    (familyField op = 0xE#4 ∧ nField op ∉ [0x1#4, 0xE#4]) ∨
    (familyField op = 0xF#4 ∧
      kkField op ∉ [0x07#8, 0x0A#8, 0x15#8, 0x18#8, 0x1E#8, 0x29#8, 0x33#8, 0x55#8, 0x65#8])

/-! ### Reset and invariants -/

/-- The state after reset with any font and either coupling, read piece by piece: the table of R37. The source states
memory, the registers, PC and SP; the other values are the spec's decisions D14 and D5. -/
def Obligations.ResetLeavesTheTableOfValues : Prop :=
  ∀ (font : Config.Font) (coupling : Config.TimerCoupling),
    let s := State.resetWith font coupling
    (∀ r, s.reg r = 0) ∧ s.index = 0 ∧ s.pc.toNat = 0x200 ∧ s.sp.val = 0 ∧ (∀ k, s.slot k = 0) ∧ s.dt = 0 ∧ s.st = 0 ∧
    (∀ a (h : a < 80), s.byteAt a = font[a]) ∧ (∀ a, 80 ≤ a → s.byteAt a = 0) ∧
    (∀ cx cy, s.display.pixel cx cy = false) ∧ (∀ k, s.key k = false) ∧
    s.status = { halted := false, cause := .none, errPc := 0, errOp := none, errAddr := none } ∧ s.reports = []

/-- The invariant holds after reset, with any font and either coupling. -/
def Obligations.InvariantHoldsAfterReset : Prop :=
  ∀ (font : Config.Font) (coupling : Config.TimerCoupling), (State.resetWith font coupling).Inv

/-- Every cycle keeps the invariant: memory in canonical form inside 0..4095, STATUS and every report as their rules say. -/
def Obligations.EveryCycleKeepsTheInvariant : Prop :=
  ∀ s t : State, s.Inv → step s = .next t → t.Inv

/-- Every operation of the host keeps the invariant. -/
def Obligations.EveryOperationKeepsTheInvariant : Prop :=
  ∀ (o : Operation) (s t : State) (r : Reply), s.Inv → perform o s = .next (t, r) → t.Inv

/-- Memories of one font, in canonical form, that read alike at every address are equal data. -/
def Obligations.MemoriesThatReadAlikeAreEqual : Prop :=
  ∀ (f : Config.Font) (m m' : Memory), m.wf f → m'.wf f → (∀ a, a < 4096 → m.byteAt f a = m'.byteAt f a) → m = m'

/-! ### The cycle -/

/-- When the bytes at PC decode to an instruction, the step is that instruction's effect, followed under `perCycle` by one
tick, whatever the effect was (R108, R214; decision D16; log entry 7). -/
def Obligations.StepRunsTheDecodedInstruction : Prop :=
  ∀ (s : State) (i : Instr) (high low : Byte) (rest : List Byte), s.safe →
    s.mem.read s.font s.pc.toNat = some high → s.mem.read s.font (s.pc.toNat + 1) = some low →
    decodeBytes (high :: low :: rest) = .ok (i, rest) →
    ∃ t, exec i s = .next t ∧ step s = .next (if s.coupling = .perCycle then t.tick else t)

/-- Every cycle, and every instruction in every state, answers a next state: nothing in this hardware ends a step. -/
def Obligations.EveryCycleAnswersANextState : Prop :=
  (∀ s : State, ∃ t, step s = .next t) ∧ ∀ (i : Instr) (s : State), ∃ t, exec i s = .next t

/-- With STATUS.halted = 1, RunCycle changes nothing (R101; decision D5). -/
def Obligations.HaltedEngineChangesNothing : Prop :=
  ∀ (s : State) (n : Nat), s.status.halted = true → Host.Core.run Sys2Proof.core n s = .next s

/-- The fetch (R102): the word of the two bytes at PC and PC + 1, high byte first, whatever the parity of PC; it succeeds
exactly when PC ≤ 4094, and otherwise the cycle records OutOfRange, and under `external` coupling, where no tick ends it,
changes nothing else. -/
def Obligations.FetchReadsTwoBytesHighByteFirst : Prop :=
  ∀ s : State,
    (s.pc.toNat ≤ 4094 → ∃ op, s.fetch = .ok op ∧
      op.toNat = (s.byteAt s.pc.toNat).toNat * 256 + (s.byteAt (s.pc.toNat + 1)).toNat) ∧
    (4094 < s.pc.toNat → s.fetch = .error (if s.pc.toNat > 4095 then s.pc.toNat else s.pc.toNat + 1)) ∧
    (s.safe → 4094 < s.pc.toNat → ∃ t, step s = .next t ∧
      t.status =
        haltedWith .outOfRange s.pc none (some (if s.pc.toNat > 4095 then s.pc.toNat else s.pc.toNat + 1)) ∧
      (s.coupling = .external → t = { s with status := t.status }))

/-- The PC policy of every instruction, of an invalid word and of a fatal condition (the table of R104). -/
def Obligations.PcAdvancesByTheClassOfTheInstruction : Prop :=
  (∀ (i : Instr) (s t : State), s.safe → exec i s = .next t →
    (t.safe → pcPolicy s i t.pc) ∧ (t.status.halted = true → t.pc = s.pc)) ∧
  (∀ (s t : State) (op : Word), s.safe → s.fetch = .ok op → (∀ i, decodeWord op ≠ .ok i) → step s = .next t →
    t.pc.toNat = (s.pc.toNat + 2) % 65536) ∧
  (∀ (s t : State) (a : Nat), s.safe → s.fetch = .error a → step s = .next t → t.pc = s.pc)

/-- An invalid opcode is reported with its word and address, PC moves past it, and nothing else changes; the engine runs
on (R105, R251; decision D4). -/
def Obligations.InvalidOpcodeIsReportedAndSkipped : Prop :=
  ∀ (s : State) (op : Word), s.safe → s.coupling = .external → s.fetch = .ok op → (∀ i, decodeWord op ≠ .ok i) →
    ∃ t, step s = .next t ∧ t.reports = s.reports ++ [{ op := op, pc := s.pc }] ∧ t.pc = s.pc + 2 ∧
      t = { s with reports := t.reports, pc := t.pc }

/-- A fatal condition is precise: the failing cycle changes nothing but STATUS, apart under `perCycle` from the tick that
ends every cycle (R108, R214; decision D16; log entry 7), and STATUS names the PC of the failing instruction or fetch (R258,
R257; decisions D5, D6). -/
def Obligations.FatalConditionsChangeOnlyTheStatus : Prop :=
  ∀ s t : State, s.safe → step s = .next t → t.status.halted = true →
    t = { (if s.coupling = .perCycle then s.tick else s) with status := t.status } ∧ t.status.errPc = s.pc ∧
    (t.status.errOp = none → s.fetch = .error (t.status.errAddr.getD 0)) ∧
    (∀ op, t.status.errOp = some op → s.fetch = .ok op)

/-- Which instruction can raise what, and exactly when (R255, R252, R253, R254). -/
def Obligations.OnlyTheListedInstructionsRaise : Prop :=
  ∀ (i : Instr) (s t : State), s.safe → exec i s = .next t →
    (t.status.halted = true ↔
      ((∃ nnn, i = .call nnn) ∧ s.sp.val = 16) ∨ (i = .ret ∧ s.sp.val = 0) ∨
      (∃ n, indexBytes i = some n ∧ n ≠ 0 ∧ 4095 < s.index.toNat + n - 1)) ∧
    (t.status.halted = true → t.status =
      haltedWith (if i = .ret then .stackUnderflow else if indexBytes i = none then .stackOverflow else .outOfRange)
        s.pc (some (encode i)) (if indexBytes i = none then none else some (max s.index.toNat 4096)))

/-- `TIMER_COUPLING`: a `perCycle` machine does in each cycle what an `external` one does, then one tick, a failing
cycle included; only the no-op of an engine that was halted before does not tick (R108, R101, R214; decision D16; log entry
7). -/
def Obligations.PerCycleIsExternalThenOneTick : Prop :=
  ∀ s : State, s.coupling = .external → ∃ t, step s = .next t ∧ t.coupling = .external ∧
    step { s with coupling := .perCycle } =
      .next { (if s.status.halted = true then t else t.tick) with coupling := .perCycle }

/-- A finished guest stays finished: under `external` nothing at all changes, under `perCycle` only the tick (R290;
decision D31). -/
def Obligations.FinishedGuestStaysFinished : Prop :=
  ∀ s : State, s.finished →
    ∃ t, step s = .next t ∧ t = (if s.coupling = .perCycle then s.tick else s) ∧ t.finished

/-! ### Control flow -/

/-- JUMP (R120). After a jump to 0xFFF the next cycle fails, whatever the coupling; under `external`, where no tick ends it,
it changes nothing but STATUS. -/
def Obligations.JumpSetsPcToItsAddress : Prop :=
  ∀ (nnn : Address) (s : State),
    decodeWord (formatA 0x1#4 nnn) = .ok (.jp nnn) ∧
    ∃ t, exec (.jp nnn) s = .next t ∧ t.pc.toNat = nnn.toNat ∧ ChangesOnly noReg [] s t ∧
      (nnn = 0xFFF#12 → s.safe → ∃ u, step t = .next u ∧
        u.status = haltedWith .outOfRange 0xFFF#16 none (some 0x1000) ∧
        (s.coupling = .external → u = { t with status := u.status }))

/-- CALL (R121; the pushed value is decision D7, conflict C2): below 16 outstanding calls it pushes the address of the
next instruction into the slot SP names, and no other slot changes. -/
def Obligations.CallPushesTheAddressAfterIt : Prop :=
  ∀ (nnn : Address) (s : State) (k : Fin 16), s.sp.val = k.val →
    decodeWord (formatA 0x2#4 nnn) = .ok (.call nnn) ∧
    ∃ t, exec (.call nnn) s = .next t ∧ (t.slot k).toNat = (s.pc.toNat + 2) % 65536 ∧
      (∀ j, j ≠ k → t.slot j = s.slot j) ∧ t.sp.val = s.sp.val + 1 ∧ t.pc.toNat = nnn.toNat ∧
      ChangesOnly noReg [.stack] s t

/-- RETURN (R122): with a call outstanding it pops without clearing the slot and adds nothing to the popped value; with SP
= 0 it raises StackUnderflow and writes nothing. -/
def Obligations.ReturnPopsThePushedAddress : Prop :=
  decodeWord 0x00EE#16 = .ok .ret ∧
  (∀ (s : State) (k : Fin 16), s.sp.val = k.val + 1 →
    ∃ t, exec .ret s = .next t ∧ t.pc = s.slot k ∧ t.sp.val = k.val ∧ (∀ j, t.slot j = s.slot j) ∧
      ChangesOnly noReg [.stack] s t) ∧
  (∀ s : State, s.safe → s.sp.val = 0 →
    ∃ q : Status, exec .ret s = .next { s with status := q } ∧ q.halted = true ∧ q.cause = .stackUnderflow)

/-- A CALL and the RET that pops its slot pair up (R128). -/
def Obligations.ReturnComesBackAfterTheCall : Prop :=
  ∀ (nnn : Address) (s t u : State) (k : Fin 16), s.sp.val = k.val → exec (.call nnn) s = .next t →
    u.sp = t.sp → u.slot k = t.slot k →
    ∃ v, exec .ret u = .next v ∧ v.pc = s.pc + 2 ∧ v.sp = s.sp

/-- SKIP-EQUAL and SKIP-NOT-EQUAL with an immediate (R123, R124). -/
def Obligations.ImmediateSkipsCompareAndSkip : Prop :=
  ∀ (x : Reg) (kk : Byte) (s : State),
    decodeWord (formatXK 0x3#4 (nibbleOf x) kk) = .ok (.seImm x kk) ∧
    decodeWord (formatXK 0x4#4 (nibbleOf x) kk) = .ok (.sneImm x kk) ∧
    ∃ t u, exec (.seImm x kk) s = .next t ∧ exec (.sneImm x kk) s = .next u ∧
      (t.pc.toNat = if (s.reg x).toNat = kk.toNat then (s.pc.toNat + 4) % 65536 else (s.pc.toNat + 2) % 65536) ∧
      (u.pc.toNat = if (s.reg x).toNat = kk.toNat then (s.pc.toNat + 2) % 65536 else (s.pc.toNat + 4) % 65536) ∧
      ChangesOnly noReg [] s t ∧ ChangesOnly noReg [] s u

/-- SKIP-EQUAL and SKIP-NOT-EQUAL between registers, whatever the ignored nibble (R125, R126; decision D3), which the term
keeps by the model's choice (log entry 9). -/
def Obligations.RegisterSkipsCompareAndSkip : Prop :=
  ∀ (x y : Reg) (ign : Nibble) (s : State),
    decodeWord (formatXYN 0x5#4 (nibbleOf x) (nibbleOf y) ign) = .ok (.seReg x y ign) ∧
    decodeWord (formatXYN 0x9#4 (nibbleOf x) (nibbleOf y) ign) = .ok (.sneReg x y ign) ∧
    ∃ t u, exec (.seReg x y ign) s = .next t ∧ exec (.sneReg x y ign) s = .next u ∧
      (t.pc.toNat = if (s.reg x).toNat = (s.reg y).toNat then (s.pc.toNat + 4) % 65536 else (s.pc.toNat + 2) % 65536) ∧
      (u.pc.toNat = if (s.reg x).toNat = (s.reg y).toNat then (s.pc.toNat + 2) % 65536 else (s.pc.toNat + 4) % 65536) ∧
      (x = y → t.pc = s.pc + 4 ∧ u.pc = s.pc + 2) ∧
      ChangesOnly noReg [] s t ∧ ChangesOnly noReg [] s u

/-- JUMP-INDEXED (R127; decision D21): nnn + V0, neither masked to 12 bits nor checked. -/
def Obligations.IndexedJumpAddsV0WithoutMasking : Prop :=
  ∀ (nnn : Address) (s : State),
    ∃ t, exec (.jpV0 nnn) s = .next t ∧ t.pc.toNat = nnn.toNat + (s.reg 0).toNat ∧ ChangesOnly noReg [] s t

/-! ### Arithmetic and logic -/

/-- LD, OR, AND, XOR between registers (R141 to R144): the destination bit by bit, and VF untouched unless it is Vx. -/
def Obligations.LoadAndLogicLeaveTheFlagAlone : Prop :=
  ∀ (x y : Reg) (s : State),
    (decodeWord (formatXYN 0x8#4 (nibbleOf x) (nibbleOf y) 0x0#4) = .ok (.ldReg x y) ∧
      decodeWord (formatXYN 0x8#4 (nibbleOf x) (nibbleOf y) 0x1#4) = .ok (.orReg x y) ∧
      decodeWord (formatXYN 0x8#4 (nibbleOf x) (nibbleOf y) 0x2#4) = .ok (.andReg x y) ∧
      decodeWord (formatXYN 0x8#4 (nibbleOf x) (nibbleOf y) 0x3#4) = .ok (.xorReg x y)) ∧
    (∃ t, exec (.ldReg x y) s = .next t ∧ t.reg x = s.reg y ∧ t.pc = s.pc + 2 ∧ ChangesOnly (· = x) [] s t) ∧
    (∃ t, exec (.orReg x y) s = .next t ∧
      (∀ b, b < 8 → (t.reg x).getLsbD b = ((s.reg x).getLsbD b || (s.reg y).getLsbD b)) ∧
      t.pc = s.pc + 2 ∧ ChangesOnly (· = x) [] s t) ∧
    (∃ t, exec (.andReg x y) s = .next t ∧
      (∀ b, b < 8 → (t.reg x).getLsbD b = ((s.reg x).getLsbD b && (s.reg y).getLsbD b)) ∧
      t.pc = s.pc + 2 ∧ ChangesOnly (· = x) [] s t) ∧
    (∃ t, exec (.xorReg x y) s = .next t ∧
      (∀ b, b < 8 → (t.reg x).getLsbD b = ((s.reg x).getLsbD b ^^ (s.reg y).getLsbD b)) ∧
      t.pc = s.pc + 2 ∧ ChangesOnly (· = x) [] s t)

/-- ADD, SUB, SUBN (R145, R146, R148, R153): for x other than 15 the result is in Vx, and for every x VF ends as the carry
or the not-borrow flag (with x = 15 the flag is written last: decision D8). -/
def Obligations.AddAndSubtractDefineTheFlag : Prop :=
  ∀ (x y : Reg) (s : State),
    (∃ t, exec (.addReg x y) s = .next t ∧
      (x ≠ 15 → (t.reg x).toNat = ((s.reg x).toNat + (s.reg y).toNat) % 256) ∧
      (t.reg 15).toNat = (if (s.reg x).toNat + (s.reg y).toNat > 255 then 1 else 0) ∧
      t.pc = s.pc + 2 ∧ ChangesOnly (fun r => r = x ∨ r = 15) [] s t) ∧
    (∃ t, exec (.subReg x y) s = .next t ∧
      (x ≠ 15 → (t.reg x).toNat =
        (if (s.reg x).toNat ≥ (s.reg y).toNat then (s.reg x).toNat - (s.reg y).toNat
         else (s.reg x).toNat + 256 - (s.reg y).toNat)) ∧
      (t.reg 15).toNat = (if (s.reg x).toNat ≥ (s.reg y).toNat then 1 else 0) ∧
      t.pc = s.pc + 2 ∧ ChangesOnly (fun r => r = x ∨ r = 15) [] s t) ∧
    (∃ t, exec (.subnReg x y) s = .next t ∧
      (x ≠ 15 → (t.reg x).toNat =
        (if (s.reg y).toNat ≥ (s.reg x).toNat then (s.reg y).toNat - (s.reg x).toNat
         else (s.reg y).toNat + 256 - (s.reg x).toNat)) ∧
      (t.reg 15).toNat = (if (s.reg y).toNat ≥ (s.reg x).toNat then 1 else 0) ∧
      t.pc = s.pc + 2 ∧ ChangesOnly (fun r => r = x ∨ r = 15) [] s t)

/-- SHR and SHL (R147, R149, R153): Vx shifts in place whatever the ignored nibble, and VF ends as the bit shifted out
(with x = 15 the flag is written last: decision D8). -/
def Obligations.ShiftsMoveTheBitOutIntoTheFlag : Prop :=
  ∀ (x : Reg) (ign : Nibble) (s : State),
    (∃ t, exec (.shr x ign) s = .next t ∧ (x ≠ 15 → (t.reg x).toNat = (s.reg x).toNat / 2) ∧
      (t.reg 15).toNat = (s.reg x).toNat % 2 ∧ t.pc = s.pc + 2 ∧
      ChangesOnly (fun r => r = x ∨ r = 15) [] s t) ∧
    (∃ t, exec (.shl x ign) s = .next t ∧ (x ≠ 15 → (t.reg x).toNat = (2 * (s.reg x).toNat) % 256) ∧
      (t.reg 15).toNat = (s.reg x).toNat / 128 ∧ t.pc = s.pc + 2 ∧
      ChangesOnly (fun r => r = x ∨ r = 15) [] s t)

/-- SET and ADD-immediate (R150, R151): no flag, even when the sum exceeds 255. -/
def Obligations.ImmediateLoadAndAddHaveNoFlag : Prop :=
  ∀ (x : Reg) (kk : Byte) (s : State),
    decodeWord (formatXK 0x6#4 (nibbleOf x) kk) = .ok (.ldImm x kk) ∧
    decodeWord (formatXK 0x7#4 (nibbleOf x) kk) = .ok (.addImm x kk) ∧
    (∃ t, exec (.ldImm x kk) s = .next t ∧ t.reg x = kk ∧ t.pc = s.pc + 2 ∧ ChangesOnly (· = x) [] s t) ∧
    (∃ t, exec (.addImm x kk) s = .next t ∧ (t.reg x).toNat = ((s.reg x).toNat + kk.toNat) % 256 ∧
      t.pc = s.pc + 2 ∧ ChangesOnly (· = x) [] s t)

/-- RANDOM (R152; decision D18, log entry 1): the draw masked by kk, whatever the draw, and one draw consumed. -/
def Obligations.RandomIsTheDrawUnderTheMask : Prop :=
  ∀ (x : Reg) (kk : Byte) (s : State),
    ∃ t, exec (.rnd x kk) s = .next t ∧
      (∀ b, b < 8 → (t.reg x).getLsbD b = ((Config.draw s.drawCount).getLsbD b && kk.getLsbD b)) ∧
      t.drawCount = s.drawCount + 1 ∧ t.pc = s.pc + 2 ∧ ChangesOnly (· = x) [.draws] s t

/-! ### Memory and index -/

/-- SET-INDEX (R170). -/
def Obligations.SetIndexLoadsTheAddress : Prop :=
  ∀ (nnn : Address) (s : State),
    decodeWord (formatA 0xA#4 nnn) = .ok (.ldI nnn) ∧
    ∃ t, exec (.ldI nnn) s = .next t ∧ t.index.toNat = nnn.toNat ∧ t.index.toNat ≤ 0xFFF ∧ t.pc = s.pc + 2 ∧
      ChangesOnly noReg [.index] s t

/-- ADD-TO-INDEX and FONT-ADDRESS (R171, R172; decisions D10, D13): modulo 65536 and no flag; the whole byte times 5, and
for a digit the address of its glyph of the machine's font, in memory as reset leaves it. -/
def Obligations.IndexArithmeticHasNoFlag : Prop :=
  ∀ (x : Reg) (s : State),
    (∃ t, exec (.addI x) s = .next t ∧ t.index.toNat = (s.index.toNat + (s.reg x).toNat) % 65536 ∧
      t.pc = s.pc + 2 ∧ ChangesOnly noReg [.index] s t) ∧
    (∃ t, exec (.ldF x) s = .next t ∧ t.index.toNat = (s.reg x).toNat * 5 ∧ t.pc = s.pc + 2 ∧
      ChangesOnly noReg [.index] s t ∧
      (s.mem = State.reset.mem → (s.reg x).toNat < 16 → ∀ k, k < 5 →
        some (t.byteAt (t.index.toNat + k)) = s.font[5 * (s.reg x).toNat + k]?))

/-- STORE-BCD (R173; I unchanged is decision D11): with I..I+2 in memory, the digits of Vx at I, I + 1, I + 2 and no other
byte. -/
def Obligations.StoreBcdWritesTheThreeDigits : Prop :=
  ∀ (x : Reg) (s : State), s.index.toNat + 2 ≤ 4095 →
    ∃ t, exec (.ldB x) s = .next t ∧
      (let hundreds := (t.byteAt s.index.toNat).toNat
       let tens := (t.byteAt (s.index.toNat + 1)).toNat
       let ones := (t.byteAt (s.index.toNat + 2)).toNat
       100 * hundreds + 10 * tens + ones = (s.reg x).toNat ∧ hundreds ≤ 2 ∧ tens ≤ 9 ∧ ones ≤ 9) ∧
      (∀ a, a < s.index.toNat ∨ s.index.toNat + 3 ≤ a → t.byteAt a = s.byteAt a) ∧
      t.pc = s.pc + 2 ∧ ChangesOnly noReg [.memory] s t

/-- REGISTER-DUMP (R174; I unchanged is decision D11): with I..I+x in memory, V[0]..V[x] at I..I+x and no other byte. -/
def Obligations.RegisterDumpStoresTheBlock : Prop :=
  ∀ (x : Reg) (s : State), s.index.toNat + x.val ≤ 4095 →
    ∃ t, exec (.ldMemVx x) s = .next t ∧
      (∀ r : Reg, r ≤ x → t.byteAt (s.index.toNat + r.val) = s.reg r) ∧
      (∀ a, a < s.index.toNat ∨ s.index.toNat + x.val < a → t.byteAt a = s.byteAt a) ∧
      t.pc = s.pc + 2 ∧ ChangesOnly noReg [.memory] s t

/-- REGISTER-LOAD (R175; I unchanged is decision D11): with I..I+x in memory, V[0]..V[x] take the bytes at I..I+x, the
registers above x keep theirs, and memory is unchanged. -/
def Obligations.RegisterLoadLoadsTheBlock : Prop :=
  ∀ (x : Reg) (s : State), s.index.toNat + x.val ≤ 4095 →
    ∃ t, exec (.ldVxMem x) s = .next t ∧
      (∀ r : Reg, r ≤ x → t.reg r = s.byteAt (s.index.toNat + r.val)) ∧
      t.pc = s.pc + 2 ∧ ChangesOnly (· ≤ x) [] s t

/-- A dump over the instruction stream is seen by the very next fetch (R62). -/
def Obligations.StoredBytesAreFetchedNext : Prop :=
  ∀ (x : Reg) (s : State), 1 ≤ x.val → s.index.toNat + x.val ≤ 4095 → s.index.toNat = s.pc.toNat + 2 →
    ∃ t op, exec (.ldMemVx x) s = .next t ∧ t.fetch = .ok op ∧ op.toNat = (s.reg 0).toNat * 256 + (s.reg 1).toNat

/-- The fatal conditions of the instructions: CALL with SP = 16, RET with SP = 0, and the four instructions that access
memory at I when the range leaves memory. Each halts the engine, records the instruction and, for a range, the lowest bad
address (I is not masked), and changes nothing else (R252, R253, R254, R176, R258; decisions D5, D6). -/
def Obligations.FailingInstructionsChangeOnlyTheStatus : Prop :=
  ∀ s : State, s.safe →
    (∀ nnn : Address, s.sp.val = 16 →
      exec (.call nnn) s = .next { s with status := haltedWith .stackOverflow s.pc (some (formatA 0x2#4 nnn)) none }) ∧
    (s.sp.val = 0 →
      exec .ret s = .next { s with status := haltedWith .stackUnderflow s.pc (some 0x00EE#16) none }) ∧
    (∀ (i : Instr) (n : Nat), indexBytes i = some n → n ≠ 0 → 4095 < s.index.toNat + n - 1 →
      exec i s = .next { s with
        status := haltedWith .outOfRange s.pc (some (encode i)) (some (max s.index.toNat 4096)) })

/-! ### Display -/

/-- CLEAR (R192). -/
def Obligations.ClearUnsetsEveryPixel : Prop :=
  decodeWord 0x00E0#16 = .ok .cls ∧
  ∀ s : State, ∃ t, exec .cls s = .next t ∧ (∀ cx cy, t.display.pixel cx cy = false) ∧ t.pc = s.pc + 2 ∧
    ChangesOnly noReg [.display] s t

/-- DRAW (R190, R191; decisions D9, D35): every sprite pixel lands modulo 64 and modulo 32 and is XORed onto the grid,
every other pixel keeps its value, and VF is 1 exactly when some pixel went from set to unset. The coordinates are the
registers before VF is written, whatever x and y. -/
def Obligations.DrawXorsTheSpriteWithWrapAround : Prop :=
  ∀ (x y : Reg) (n : Nat) (s : State), n ≤ 15 → (n = 0 ∨ s.index.toNat + n - 1 ≤ 4095) →
    ∃ t, exec (.drw x y n) s = .next t ∧
      (∀ c r cx cy, c < 8 → r < n → landsOn (s.reg x) (s.reg y) c r cx cy →
        t.display.pixel cx cy = (s.display.pixel cx cy ^^ spritePixel s c r)) ∧
      (∀ cx cy, (∀ c r, c < 8 → r < n → ¬ landsOn (s.reg x) (s.reg y) c r cx cy) →
        t.display.pixel cx cy = s.display.pixel cx cy) ∧
      (t.reg 15 = 0 ∨ t.reg 15 = 1) ∧
      (t.reg 15 = 1 ↔ ∃ cx cy, s.display.pixel cx cy = true ∧ t.display.pixel cx cy = false) ∧
      t.pc = s.pc + 2 ∧ ChangesOnly (· = 15) [.display] s t

/-- "draw∘draw = identity" (R193 (a)): the same sprite drawn again at the same position, from any state with the display
the first draw left, restores every pixel, and VF is 1 exactly when a set sprite bit met a pixel the first draw left set. -/
def Obligations.DrawingTwiceRestoresTheDisplay : Prop :=
  ∀ (x y : Reg) (n : Nat) (s t u : State), n ≤ 15 → (n = 0 ∨ s.index.toNat + n - 1 ≤ 4095) →
    exec (.drw x y n) s = .next t →
    u.display = t.display → u.index = s.index → (∀ a, u.byteAt a = s.byteAt a) →
    u.reg x = s.reg x → u.reg y = s.reg y →
    ∃ v, exec (.drw x y n) u = .next v ∧ v.display = s.display ∧
      (v.reg 15 = 1 ↔ ∃ c r cx cy, c < 8 ∧ r < n ∧ landsOn (s.reg x) (s.reg y) c r cx cy ∧
        spritePixel s c r = true ∧ t.display.pixel cx cy = true)

/-! ### Input and timers -/

/-- SKIP-IF-PRESSED and SKIP-IF-NOT-PRESSED (R201, R202; decisions D3, D12): the key is the low four bits of Vx. -/
def Obligations.KeySkipsReadTheKeyOfTheLowNibble : Prop :=
  ∀ (x : Reg) (ign : Nibble) (s : State) (k : Fin 16), (s.reg x).toNat % 16 = k.val →
    ∃ t u, exec (.skp x ign) s = .next t ∧ exec (.sknp x ign) s = .next u ∧
      t.pc = (if s.key k = true then s.pc + 4 else s.pc + 2) ∧
      u.pc = (if s.key k = true then s.pc + 2 else s.pc + 4) ∧
      ChangesOnly noReg [] s t ∧ ChangesOnly noReg [] s u

/-- WAIT-FOR-KEY (R203, R107; decision D30): with a key pressed Vx is the least index of a pressed key and PC advances;
with none pressed nothing at all changes, and under `external` coupling every number of cycles leaves the whole state as it
is, since PC has not moved. -/
def Obligations.WaitForKeyTakesTheLowestKeyOrBlocks : Prop :=
  ∀ (x : Reg) (s : State),
    decodeWord (formatXK 0xF#4 (nibbleOf x) 0x0A#8) = .ok (.ldVxK x) ∧
    (∀ k : Fin 16, s.key k = true → (∀ j, j < k → s.key j = false) →
      ∃ t, exec (.ldVxK x) s = .next t ∧ (t.reg x).toNat = k.val ∧ t.pc = s.pc + 2 ∧ ChangesOnly (· = x) [] s t) ∧
    ((∀ k, s.key k = false) → exec (.ldVxK x) s = .next s ∧
      ∀ n, s.coupling = .external → s.fetch = .ok (formatXK 0xF#4 (nibbleOf x) 0x0A#8) →
        Host.Core.run Sys2Proof.core n s = .next s)

/-- LOAD-DELAY, SET-DELAY, SET-SOUND (R210 to R212). -/
def Obligations.TimerInstructionsMoveOneByte : Prop :=
  ∀ (x : Reg) (s : State),
    (decodeWord (formatXK 0xF#4 (nibbleOf x) 0x07#8) = .ok (.ldVxDt x) ∧
      decodeWord (formatXK 0xF#4 (nibbleOf x) 0x15#8) = .ok (.ldDtVx x) ∧
      decodeWord (formatXK 0xF#4 (nibbleOf x) 0x18#8) = .ok (.ldStVx x)) ∧
    (∃ t, exec (.ldVxDt x) s = .next t ∧ t.reg x = s.dt ∧ t.pc = s.pc + 2 ∧ ChangesOnly (· = x) [] s t) ∧
    (∃ t, exec (.ldDtVx x) s = .next t ∧ t.dt = s.reg x ∧ t.pc = s.pc + 2 ∧ ChangesOnly noReg [.delay] s t) ∧
    (∃ t, exec (.ldStVx x) s = .next t ∧ t.st = s.reg x ∧ t.pc = s.pc + 2 ∧ ChangesOnly noReg [.sound] s t)

/-- TimerTick, any number of times, in any state, halted included (R213; decision D27): each timer counts down and stays
at 0, and nothing else changes. -/
def Obligations.TicksCountBothTimersDownToZero : Prop :=
  ∀ (n : Nat) (s : State), ∃ t, performAll (List.replicate n .timerTick) s = .next t ∧
    t.dt.toNat = s.dt.toNat - n ∧ t.st.toNat = s.st.toNat - n ∧ t = { s with dt := t.dt, st := t.st }

/-! ### Rules of the whole machine -/

/-- A completing instruction changes no general register but its destinations and, for the six of R21, VF; and those six
leave VF 0 or 1 (R20, R21). -/
def Obligations.RegistersChangeOnlyAsDestinationsOrFlag : Prop :=
  ∀ (i : Instr) (s t : State), exec i s = .next t →
    (∀ r, ¬ destinations i r → (r = 15 → ¬ definesFlag i) → t.reg r = s.reg r) ∧
    (definesFlag i → s.safe → t.safe → t.reg 15 = 0 ∨ t.reg 15 = 1)

/-- SP and the slots are written only by CALL, which adds 1, and RET, which takes 1 away; a slot only by a CALL at it
(R24, R25). -/
def Obligations.OnlyCallAndReturnMoveTheStack : Prop :=
  ∀ (i : Instr) (s t : State), exec i s = .next t →
    (t.sp ≠ s.sp → (∃ nnn, i = .call nnn ∧ t.sp.val = s.sp.val + 1) ∨ (i = .ret ∧ t.sp.val + 1 = s.sp.val)) ∧
    (∀ k, t.slot k ≠ s.slot k → (∃ nnn, i = .call nnn) ∧ k.val = s.sp.val)

/-- Memory is written only by STORE-BCD and REGISTER-DUMP among the instructions, and only in 0..4095 (R50, R59). -/
def Obligations.OnlyBcdAndDumpStore : Prop :=
  ∀ (i : Instr) (s t : State) (a : Nat), exec i s = .next t → t.byteAt a ≠ s.byteAt a →
    a ≤ 4095 ∧ s.index.toNat ≤ a ∧
    ((∃ x, i = .ldB x ∧ a ≤ s.index.toNat + 2) ∨ (∃ x : Reg, i = .ldMemVx x ∧ a ≤ s.index.toNat + x.val))

/-- I is written only by SET-INDEX, ADD-TO-INDEX and FONT-ADDRESS, DT only by SET-DELAY and ST only by SET-SOUND among the
instructions (R22, R26, R27, R214). -/
def Obligations.OnlyTheNamedInstructionsWriteIndexAndTimers : Prop :=
  ∀ (i : Instr) (s t : State), exec i s = .next t →
    (t.index ≠ s.index → (∃ nnn, i = .ldI nnn) ∨ (∃ x, i = .addI x) ∨ (∃ x, i = .ldF x)) ∧
    (t.dt ≠ s.dt → ∃ x, i = .ldDtVx x) ∧ (t.st ≠ s.st → ∃ x, i = .ldStVx x)

/-- D is changed only by a cycle that runs DRAW or CLEAR, and by Reset: no mutator reaches it (R30, R193 (b), R228). -/
def Obligations.OnlyDrawClearAndResetChangeTheDisplay : Prop :=
  ∀ (o : Operation) (s t : State) (r : Reply), perform o s = .next (t, r) → t.display ≠ s.display →
    o = .reset ∨ (o = .runCycle ∧ s.safe ∧ ∃ op, s.fetch = .ok op ∧
      (decodeWord op = .ok .cls ∨ ∃ x y n, decodeWord op = .ok (.drw x y n)))

/-- K is written only by the host's SetKey and by Reset; no cycle writes it (R31, R225). -/
def Obligations.OnlyTheHostWritesTheKeys : Prop :=
  ∀ (o : Operation) (s t : State) (r : Reply), perform o s = .next (t, r) → t.keys ≠ s.keys →
    o = .reset ∨ ∃ k b, o = .setKey k b

/-- Once halted, only Reset changes STATUS: the first record is kept (R259, R260; decisions D5, D32). -/
def Obligations.OnlyResetClearsTheFailureRecord : Prop :=
  ∀ (os : List Operation) (s t : State), s.status.halted = true → performAll os s = .next t → Operation.reset ∉ os →
    t.status = s.status ∧ t.reports = s.reports ∧ t.display = s.display

/-- The guest cannot read ST (R27, R263): states that differ in ST alone run, for any number of cycles, to states that
differ in ST alone. -/
def Obligations.GuestCannotReadTheSoundTimer : Prop :=
  ∀ (n : Nat) (s : State) (b : Byte), ∃ t b', Host.Core.run Sys2Proof.core n s = .next t ∧
    Host.Core.run Sys2Proof.core n (s.setSt b) = .next (t.setSt b')

/-! ### The host's operations -/

/-- Reset from any state, halted included (R221, R280; decision D32): the reset state with the machine's own parameters,
but for the model's count of draws, which goes on (log entries 1, 3, 4). -/
def Obligations.ResetOperationGivesTheResetState : Prop :=
  ∀ s : State, ∃ t, perform .reset s = .next (t, .done) ∧ t.coupling = s.coupling ∧ t.font = s.font ∧
    t.drawCount = s.drawCount ∧ { t with drawCount := 0 } = State.resetWith s.font s.coupling

/-- LoadImage (R224; decision D22): an image of at most 3584 bytes goes to 0x200 upwards byte for byte and PC stays; a
longer one writes nothing and is OutOfRange at 4096. -/
def Obligations.LoadImageWritesFrom0x200 : Prop :=
  ∀ (bytes : List Byte) (s : State),
    (bytes.length ≤ 3584 → ∃ t, perform (.loadImage bytes) s = .next (t, .done) ∧
      (∀ k (h : k < bytes.length), t.byteAt (0x200 + k) = bytes[k]) ∧
      (∀ a, a < 0x200 ∨ 0x200 + bytes.length ≤ a → t.byteAt a = s.byteAt a) ∧
      t = { s with mem := t.mem }) ∧
    (3584 < bytes.length → s.safe → perform (.loadImage bytes) s =
      .next ({ s with status := haltedWith .outOfRange s.pc none (some 4096) }, .outOfRange))

/-- MemRead and MemWrite as the host reaches them (R52, R227, R231): inside 0..4095 a write changes exactly its cell and a
read changes nothing; outside, OutOfRange with that address, and nothing else changes. -/
def Obligations.HostMemoryAccessIsRangeChecked : Prop :=
  ∀ (s : State) (a v : Nat), v < 256 →
    (a ≤ 4095 → (perform (.getMem a) s = .next (s, .number (s.byteAt a).toNat)) ∧
      ∃ t, perform (.setMem a v) s = .next (t, .done) ∧ (t.byteAt a).toNat = v ∧
        (∀ b, b ≠ a → t.byteAt b = s.byteAt b) ∧ t = { s with mem := t.mem }) ∧
    (4095 < a → s.safe →
      perform (.getMem a) s =
        .next ({ s with status := haltedWith .outOfRange s.pc none (some a) }, .outOfRange) ∧
      perform (.setMem a v) s =
        .next ({ s with status := haltedWith .outOfRange s.pc none (some a) }, .outOfRange))

/-- What a mutator writes its accessor reads back, and nothing else of the registers changes (R225, R226, R229, R230). -/
def Obligations.AccessorsReadBackWhatMutatorsWrote : Prop :=
  ∀ (s : State) (k v w sp b : Nat), k < 16 → v < 256 → w < 65536 → sp ≤ 16 → b < 2 →
    (∃ t, perform (.setV k v) s = .next (t, .done) ∧ perform (.getV k) t = .next (t, .number v) ∧
      ChangesOnly (·.val = k) [] s t ∧ t.pc = s.pc) ∧
    (∃ t, perform (.setStack k w) s = .next (t, .done) ∧ perform (.getStack k) t = .next (t, .number w) ∧
      (∀ j : Fin 16, j.val ≠ k → t.slot j = s.slot j) ∧ t.sp = s.sp ∧ ChangesOnly noReg [.stack] s t ∧ t.pc = s.pc) ∧
    (∃ t, perform (.setKey k b) s = .next (t, .done) ∧ perform (.getKey k) t = .next (t, .flag (b == 1)) ∧
      (∀ j : Fin 16, j.val ≠ k → t.key j = s.key j) ∧ t = { s with keys := t.keys }) ∧
    (∃ t, perform (.setI w) s = .next (t, .done) ∧ perform .getI t = .next (t, .number w) ∧
      t = { s with index := t.index }) ∧
    (∃ t, perform (.setPC w) s = .next (t, .done) ∧ perform .getPC t = .next (t, .number w) ∧
      t = { s with pc := t.pc }) ∧
    (∃ t, perform (.setSP sp) s = .next (t, .done) ∧ perform .getSP t = .next (t, .number sp) ∧
      t = { s with sp := t.sp }) ∧
    (∃ t, perform (.setDT v) s = .next (t, .done) ∧ perform .getDT t = .next (t, .number v) ∧
      t = { s with dt := t.dt }) ∧
    (∃ t, perform (.setST v) s = .next (t, .done) ∧ perform .getST t = .next (t, .number v) ∧
      t = { s with st := t.st })

/-- Any host argument out of range, but a memory address, is refused: no effect, not halted (R231; decision D19). A byte
too wide for SetMem is refused whatever the address: the model's choice (log entry 20). -/
def Obligations.OutOfRangeHostArgumentsAreRefused : Prop :=
  ∀ (s : State) (k v : Nat),
    (15 < k → perform (.setV k v) s = .next (s, .refused) ∧ perform (.getV k) s = .next (s, .refused) ∧
      perform (.setStack k v) s = .next (s, .refused) ∧ perform (.getStack k) s = .next (s, .refused) ∧
      perform (.setKey k v) s = .next (s, .refused) ∧ perform (.getKey k) s = .next (s, .refused)) ∧
    (255 < v → perform (.setV k v) s = .next (s, .refused) ∧ perform (.setDT v) s = .next (s, .refused) ∧
      perform (.setST v) s = .next (s, .refused) ∧ perform (.setMem k v) s = .next (s, .refused)) ∧
    (65535 < v → perform (.setI v) s = .next (s, .refused) ∧ perform (.setPC v) s = .next (s, .refused) ∧
      perform (.setStack k v) s = .next (s, .refused)) ∧
    (16 < v → perform (.setSP v) s = .next (s, .refused)) ∧ (1 < v → perform (.setKey k v) s = .next (s, .refused)) ∧
    (63 < k ∨ 31 < v → perform (.getPixel k v) s = .next (s, .refused))

/-- Restore by the mutators alone (R233): into any machine, Reset and then the mutators with the values read from `s`
reproduce `s`, but for the display, STATUS and the reports, which no mutator writes, and the model's own fields, which stay
the machine's (log entries 1, 3, 4). Memory reads as that of `s` whatever the two fonts, in canonical form, and is the same
data where the machine has the font of `s`. -/
def Obligations.MutatorsRestoreAllButDisplayAndStatus : Prop :=
  ∀ s u : State, ∃ m : Memory,
    performAll s.restoreOperations u = .next { s with
      mem := m, display := Display.blank, status := Status.clear, reports := [],
      drawCount := u.drawCount, coupling := u.coupling, font := u.font } ∧
    m.wf u.font ∧ (∀ a, a < 4096 → m.byteAt u.font a = s.byteAt a) ∧ (u.font = s.font → s.mem.wf s.font → m = s.mem)
end

