-- ==== Sys2Proof/Laws/Memory.lean ====
section
/-! SUPPORT. Memory: a read after a write, runs of bytes, the canonical form kept by every write (20_memory.md R52, R59). -/

namespace Sys2Proof.Machine.Memory

variable {f : Config.Font}

theorem byteAt_filter_ne (m : Memory) (a c : Nat) :
    Memory.byteAt f (m.filter fun p => decide (p.1 ≠ a)) c = if c = a then resetByte f a else m.byteAt f c := by
  induction m with
  | nil => simp [byteAt]; rintro rfl; rfl
  | cons p m ih =>
    obtain ⟨b, x⟩ := p
    by_cases hb : b = a
    · subst hb
      simp only [ne_eq, not_true_eq_false, decide_false, Bool.false_eq_true, not_false_eq_true,
        List.filter_cons_of_neg, byteAt]
      simp only [ne_eq] at ih
      rw [ih]
      split <;> rfl
    · simp only [ne_eq, hb, not_false_eq_true, decide_true, List.filter_cons_of_pos, byteAt]
      simp only [ne_eq] at ih
      rw [ih]
      by_cases hc : c = b
      · subst hc; simp [hb]
      · simp [hc]

theorem byteAt_insertCell (m : Memory) (a c : Nat) (x : Byte) :
    (m.insertCell a x).byteAt f c = if c = a then x else m.byteAt f c := by
  induction m with
  | nil => simp [insertCell, byteAt]
  | cons p m ih =>
    obtain ⟨b, y⟩ := p
    simp only [insertCell]
    split
    · simp [byteAt]
    · split
      · rename_i h; subst h
        simp only [byteAt]
        split <;> rfl
      · rename_i h1 h2
        simp only [byteAt, ih]
        by_cases hc : c = a
        · subst hc; simp [h2]
        · simp [hc]

/-- A write changes exactly the addressed cell (R59), whatever the form of the memory. -/
@[simp] theorem byteAt_put (m : Memory) (a c : Nat) (x : Byte) :
    (m.put f a x).byteAt f c = if c = a then x else m.byteAt f c := by
  unfold put
  split
  · rename_i h; rw [byteAt_filter_ne, h]
  · exact byteAt_insertCell m a c x

/-- A run of stored bytes changes exactly the addressed cells, in ascending order (R55). -/
theorem byteAt_putBytes (xs : List Byte) : ∀ (m : Memory) (base c : Nat),
    (m.putBytes f base xs).byteAt f c =
      if h : base ≤ c ∧ c - base < xs.length then xs[c - base]'h.2 else m.byteAt f c := by
  induction xs with
  | nil => intro m base c; simp [putBytes]
  | cons x xs ih =>
    intro m base c
    rw [putBytes, ih]
    by_cases hlt : c < base
    · have h1 : ¬ (base + 1 ≤ c ∧ c - (base + 1) < xs.length) := by omega
      have h2 : ¬ (base ≤ c ∧ c - base < (x :: xs).length) := by omega
      simp only [h1, h2, dite_false, byteAt_put]
      rw [if_neg (by omega)]
    · by_cases heq : c = base
      · subst heq
        simp
      · obtain ⟨d, rfl⟩ : ∃ d, c = base + 1 + d := ⟨c - (base + 1), by omega⟩
        have h3 : base + 1 + d - (base + 1) = d := by omega
        have h4 : base + 1 + d - base = d + 1 := by omega
        simp only [h3, h4, List.length_cons, List.getElem_cons_succ, byteAt_put]
        by_cases hd : d < xs.length
        · rw [dif_pos ⟨by omega, hd⟩, dif_pos ⟨by omega, by omega⟩]
        · rw [dif_neg (by omega), dif_neg (by omega), if_neg (by omega)]

/-- Outside the stored bytes nothing changes. -/
theorem byteAt_putBytes_outside (xs : List Byte) (m : Memory) (base c : Nat) (h : c < base ∨ base + xs.length ≤ c) :
    (m.putBytes f base xs).byteAt f c = m.byteAt f c := by
  rw [byteAt_putBytes, dif_neg (by omega)]

@[simp] theorem length_bytesFrom (m : Memory) (n : Nat) : ∀ base, (m.bytesFrom f base n).length = n := by
  induction n with
  | zero => intro base; rfl
  | succ n ih => intro base; simp [bytesFrom, ih]

theorem getElem_bytesFrom (m : Memory) (n : Nat) : ∀ (base k : Nat) (h : k < (m.bytesFrom f base n).length),
    (m.bytesFrom f base n)[k] = m.byteAt f (base + k) := by
  induction n with
  | zero => intro base k h; simp [bytesFrom] at h
  | succ n ih =>
    intro base k h
    cases k with
    | zero => simp [bytesFrom]
    | succ k =>
      simp only [bytesFrom, List.getElem_cons_succ]
      rw [ih, show base + 1 + k = base + (k + 1) by omega]

/-! ### The canonical form -/

theorem mem_insertCell {m : Memory} {a : Nat} {x : Byte} {c : Host.Cell} (h : c ∈ m.insertCell a x) :
    c = (a, x) ∨ c ∈ m := by
  induction m with
  | nil => simpa [insertCell] using h
  | cons p m ih =>
    obtain ⟨b, y⟩ := p
    simp only [insertCell] at h
    split at h
    · simpa using h
    · split at h
      · simp only [List.mem_cons] at h ⊢; tauto
      · simp only [List.mem_cons] at h ⊢
        rcases h with h | h
        · exact .inr (.inl h)
        · rcases ih h with h | h
          · exact .inl h
          · exact .inr (.inr h)

theorem pairwise_insertCell {m : Memory} (a : Nat) (x : Byte) (h : m.Pairwise fun p q => p.1 < q.1) :
    (m.insertCell a x).Pairwise fun p q => p.1 < q.1 := by
  induction m with
  | nil => simp [insertCell]
  | cons p m ih =>
    obtain ⟨b, y⟩ := p
    rw [List.pairwise_cons] at h
    simp only [insertCell]
    split
    · rename_i hab
      refine List.pairwise_cons.2 ⟨fun c hc => ?_, List.pairwise_cons.2 h⟩
      rcases List.mem_cons.1 hc with rfl | hc
      · exact hab
      · exact Nat.lt_trans hab (h.1 c hc)
    · split
      · rename_i hab; subst hab
        exact List.pairwise_cons.2 h
      · refine List.pairwise_cons.2 ⟨fun c hc => ?_, ih h.2⟩
        rcases mem_insertCell hc with rfl | hc
        · simp only; omega
        · exact h.1 c hc

/-- A write to a cell of memory keeps the canonical form. -/
theorem wf_put {m : Memory} {a : Nat} (x : Byte) (h : m.wf f) (ha : a < Config.memSize) : (m.put f a x).wf f := by
  unfold put
  split
  · exact ⟨h.1.filter _, fun c hc => h.2 c (List.mem_filter.1 hc).1⟩
  · rename_i hx
    refine ⟨pairwise_insertCell a x h.1, fun c hc => ?_⟩
    rcases mem_insertCell hc with rfl | hc
    · exact ⟨ha, hx⟩
    · exact h.2 c hc

/-- A run of bytes stored inside memory keeps the canonical form. -/
theorem wf_putBytes (xs : List Byte) : ∀ {m : Memory} {base : Nat}, m.wf f → base + xs.length ≤ Config.memSize →
    (m.putBytes f base xs).wf f := by
  induction xs with
  | nil => intro m base h _; exact h
  | cons x xs ih =>
    intro m base h hb
    rw [List.length_cons] at hb
    exact ih (wf_put x h (by omega)) (by omega)

/-- MemWrite keeps the canonical form (R52). -/
theorem wf_write {m m' : Memory} {a : Nat} {x : Byte} (h : m.wf f) (hw : m.write f a x = some m') : m'.wf f := by
  unfold write inRange at hw
  split at hw
  · rename_i ha
    cases hw
    exact wf_put x h (by simpa using ha)
  · cases hw

/-- Memory with nothing listed, as reset leaves it, is in canonical form. -/
theorem wf_nil : Memory.wf f [] := by simp [Memory.wf]

end Sys2Proof.Machine.Memory
end

