-- ==== Sys2Proof/Laws/State.lean ====
section
/-! SUPPORT. One lemma per field, and per register, slot and key read, for each one-field update of the state. -/

namespace Sys2Proof.Machine.State

variable (s : State)

@[simp] theorem setReg_index (x : Reg) (b : Byte) : (s.setReg x b).index = s.index := rfl
@[simp] theorem setReg_pc (x : Reg) (b : Byte) : (s.setReg x b).pc = s.pc := rfl
@[simp] theorem setReg_sp (x : Reg) (b : Byte) : (s.setReg x b).sp = s.sp := rfl
@[simp] theorem setReg_stack (x : Reg) (b : Byte) : (s.setReg x b).stack = s.stack := rfl
@[simp] theorem setReg_dt (x : Reg) (b : Byte) : (s.setReg x b).dt = s.dt := rfl
@[simp] theorem setReg_st (x : Reg) (b : Byte) : (s.setReg x b).st = s.st := rfl
@[simp] theorem setReg_mem (x : Reg) (b : Byte) : (s.setReg x b).mem = s.mem := rfl
@[simp] theorem setReg_display (x : Reg) (b : Byte) : (s.setReg x b).display = s.display := rfl
@[simp] theorem setReg_keys (x : Reg) (b : Byte) : (s.setReg x b).keys = s.keys := rfl
@[simp] theorem setReg_status (x : Reg) (b : Byte) : (s.setReg x b).status = s.status := rfl
@[simp] theorem setReg_reports (x : Reg) (b : Byte) : (s.setReg x b).reports = s.reports := rfl
@[simp] theorem setReg_drawCount (x : Reg) (b : Byte) : (s.setReg x b).drawCount = s.drawCount := rfl
@[simp] theorem setReg_coupling (x : Reg) (b : Byte) : (s.setReg x b).coupling = s.coupling := rfl
@[simp] theorem setReg_font (x : Reg) (b : Byte) : (s.setReg x b).font = s.font := rfl
@[simp] theorem setReg_byteAt (x : Reg) (b : Byte) (a : Nat) : (s.setReg x b).byteAt a = s.byteAt a := rfl
@[simp] theorem setReg_slot (x : Reg) (b : Byte) (k : Fin 16) : (s.setReg x b).slot k = s.slot k := rfl
@[simp] theorem setReg_key (x : Reg) (b : Byte) (k : Fin 16) : (s.setReg x b).key k = s.key k := rfl

@[simp] theorem setRegs_regs (v : Vector Byte 16) : (s.setRegs v).regs = v := rfl
@[simp] theorem setRegs_index (v : Vector Byte 16) : (s.setRegs v).index = s.index := rfl
@[simp] theorem setRegs_pc (v : Vector Byte 16) : (s.setRegs v).pc = s.pc := rfl
@[simp] theorem setRegs_sp (v : Vector Byte 16) : (s.setRegs v).sp = s.sp := rfl
@[simp] theorem setRegs_stack (v : Vector Byte 16) : (s.setRegs v).stack = s.stack := rfl
@[simp] theorem setRegs_dt (v : Vector Byte 16) : (s.setRegs v).dt = s.dt := rfl
@[simp] theorem setRegs_st (v : Vector Byte 16) : (s.setRegs v).st = s.st := rfl
@[simp] theorem setRegs_mem (v : Vector Byte 16) : (s.setRegs v).mem = s.mem := rfl
@[simp] theorem setRegs_display (v : Vector Byte 16) : (s.setRegs v).display = s.display := rfl
@[simp] theorem setRegs_keys (v : Vector Byte 16) : (s.setRegs v).keys = s.keys := rfl
@[simp] theorem setRegs_status (v : Vector Byte 16) : (s.setRegs v).status = s.status := rfl
@[simp] theorem setRegs_reports (v : Vector Byte 16) : (s.setRegs v).reports = s.reports := rfl
@[simp] theorem setRegs_drawCount (v : Vector Byte 16) : (s.setRegs v).drawCount = s.drawCount := rfl
@[simp] theorem setRegs_coupling (v : Vector Byte 16) : (s.setRegs v).coupling = s.coupling := rfl
@[simp] theorem setRegs_font (v : Vector Byte 16) : (s.setRegs v).font = s.font := rfl
@[simp] theorem setRegs_byteAt (v : Vector Byte 16) (a : Nat) : (s.setRegs v).byteAt a = s.byteAt a := rfl
@[simp] theorem setRegs_slot (v : Vector Byte 16) (k : Fin 16) : (s.setRegs v).slot k = s.slot k := rfl
@[simp] theorem setRegs_key (v : Vector Byte 16) (k : Fin 16) : (s.setRegs v).key k = s.key k := rfl

@[simp] theorem setIndex_regs (w : Word) : (s.setIndex w).regs = s.regs := rfl
@[simp] theorem setIndex_index (w : Word) : (s.setIndex w).index = w := rfl
@[simp] theorem setIndex_pc (w : Word) : (s.setIndex w).pc = s.pc := rfl
@[simp] theorem setIndex_sp (w : Word) : (s.setIndex w).sp = s.sp := rfl
@[simp] theorem setIndex_stack (w : Word) : (s.setIndex w).stack = s.stack := rfl
@[simp] theorem setIndex_dt (w : Word) : (s.setIndex w).dt = s.dt := rfl
@[simp] theorem setIndex_st (w : Word) : (s.setIndex w).st = s.st := rfl
@[simp] theorem setIndex_mem (w : Word) : (s.setIndex w).mem = s.mem := rfl
@[simp] theorem setIndex_display (w : Word) : (s.setIndex w).display = s.display := rfl
@[simp] theorem setIndex_keys (w : Word) : (s.setIndex w).keys = s.keys := rfl
@[simp] theorem setIndex_status (w : Word) : (s.setIndex w).status = s.status := rfl
@[simp] theorem setIndex_reports (w : Word) : (s.setIndex w).reports = s.reports := rfl
@[simp] theorem setIndex_drawCount (w : Word) : (s.setIndex w).drawCount = s.drawCount := rfl
@[simp] theorem setIndex_coupling (w : Word) : (s.setIndex w).coupling = s.coupling := rfl
@[simp] theorem setIndex_font (w : Word) : (s.setIndex w).font = s.font := rfl
@[simp] theorem setIndex_byteAt (w : Word) (a : Nat) : (s.setIndex w).byteAt a = s.byteAt a := rfl
@[simp] theorem setIndex_reg (w : Word) (r : Reg) : (s.setIndex w).reg r = s.reg r := rfl
@[simp] theorem setIndex_slot (w : Word) (k : Fin 16) : (s.setIndex w).slot k = s.slot k := rfl
@[simp] theorem setIndex_key (w : Word) (k : Fin 16) : (s.setIndex w).key k = s.key k := rfl

@[simp] theorem setPc_regs (w : Word) : (s.setPc w).regs = s.regs := rfl
@[simp] theorem setPc_index (w : Word) : (s.setPc w).index = s.index := rfl
@[simp] theorem setPc_pc (w : Word) : (s.setPc w).pc = w := rfl
@[simp] theorem setPc_sp (w : Word) : (s.setPc w).sp = s.sp := rfl
@[simp] theorem setPc_stack (w : Word) : (s.setPc w).stack = s.stack := rfl
@[simp] theorem setPc_dt (w : Word) : (s.setPc w).dt = s.dt := rfl
@[simp] theorem setPc_st (w : Word) : (s.setPc w).st = s.st := rfl
@[simp] theorem setPc_mem (w : Word) : (s.setPc w).mem = s.mem := rfl
@[simp] theorem setPc_display (w : Word) : (s.setPc w).display = s.display := rfl
@[simp] theorem setPc_keys (w : Word) : (s.setPc w).keys = s.keys := rfl
@[simp] theorem setPc_status (w : Word) : (s.setPc w).status = s.status := rfl
@[simp] theorem setPc_reports (w : Word) : (s.setPc w).reports = s.reports := rfl
@[simp] theorem setPc_drawCount (w : Word) : (s.setPc w).drawCount = s.drawCount := rfl
@[simp] theorem setPc_coupling (w : Word) : (s.setPc w).coupling = s.coupling := rfl
@[simp] theorem setPc_font (w : Word) : (s.setPc w).font = s.font := rfl
@[simp] theorem setPc_byteAt (w : Word) (a : Nat) : (s.setPc w).byteAt a = s.byteAt a := rfl
@[simp] theorem setPc_reg (w : Word) (r : Reg) : (s.setPc w).reg r = s.reg r := rfl
@[simp] theorem setPc_slot (w : Word) (k : Fin 16) : (s.setPc w).slot k = s.slot k := rfl
@[simp] theorem setPc_key (w : Word) (k : Fin 16) : (s.setPc w).key k = s.key k := rfl

@[simp] theorem setSp_regs (n : Fin 17) : (s.setSp n).regs = s.regs := rfl
@[simp] theorem setSp_index (n : Fin 17) : (s.setSp n).index = s.index := rfl
@[simp] theorem setSp_pc (n : Fin 17) : (s.setSp n).pc = s.pc := rfl
@[simp] theorem setSp_sp (n : Fin 17) : (s.setSp n).sp = n := rfl
@[simp] theorem setSp_stack (n : Fin 17) : (s.setSp n).stack = s.stack := rfl
@[simp] theorem setSp_dt (n : Fin 17) : (s.setSp n).dt = s.dt := rfl
@[simp] theorem setSp_st (n : Fin 17) : (s.setSp n).st = s.st := rfl
@[simp] theorem setSp_mem (n : Fin 17) : (s.setSp n).mem = s.mem := rfl
@[simp] theorem setSp_display (n : Fin 17) : (s.setSp n).display = s.display := rfl
@[simp] theorem setSp_keys (n : Fin 17) : (s.setSp n).keys = s.keys := rfl
@[simp] theorem setSp_status (n : Fin 17) : (s.setSp n).status = s.status := rfl
@[simp] theorem setSp_reports (n : Fin 17) : (s.setSp n).reports = s.reports := rfl
@[simp] theorem setSp_drawCount (n : Fin 17) : (s.setSp n).drawCount = s.drawCount := rfl
@[simp] theorem setSp_coupling (n : Fin 17) : (s.setSp n).coupling = s.coupling := rfl
@[simp] theorem setSp_font (n : Fin 17) : (s.setSp n).font = s.font := rfl
@[simp] theorem setSp_byteAt (n : Fin 17) (a : Nat) : (s.setSp n).byteAt a = s.byteAt a := rfl
@[simp] theorem setSp_reg (n : Fin 17) (r : Reg) : (s.setSp n).reg r = s.reg r := rfl
@[simp] theorem setSp_slot (n : Fin 17) (k : Fin 16) : (s.setSp n).slot k = s.slot k := rfl
@[simp] theorem setSp_key (n : Fin 17) (k : Fin 16) : (s.setSp n).key k = s.key k := rfl

@[simp] theorem setSlot_regs (n : Fin 16) (w : Word) : (s.setSlot n w).regs = s.regs := rfl
@[simp] theorem setSlot_index (n : Fin 16) (w : Word) : (s.setSlot n w).index = s.index := rfl
@[simp] theorem setSlot_pc (n : Fin 16) (w : Word) : (s.setSlot n w).pc = s.pc := rfl
@[simp] theorem setSlot_sp (n : Fin 16) (w : Word) : (s.setSlot n w).sp = s.sp := rfl
@[simp] theorem setSlot_dt (n : Fin 16) (w : Word) : (s.setSlot n w).dt = s.dt := rfl
@[simp] theorem setSlot_st (n : Fin 16) (w : Word) : (s.setSlot n w).st = s.st := rfl
@[simp] theorem setSlot_mem (n : Fin 16) (w : Word) : (s.setSlot n w).mem = s.mem := rfl
@[simp] theorem setSlot_display (n : Fin 16) (w : Word) : (s.setSlot n w).display = s.display := rfl
@[simp] theorem setSlot_keys (n : Fin 16) (w : Word) : (s.setSlot n w).keys = s.keys := rfl
@[simp] theorem setSlot_status (n : Fin 16) (w : Word) : (s.setSlot n w).status = s.status := rfl
@[simp] theorem setSlot_reports (n : Fin 16) (w : Word) : (s.setSlot n w).reports = s.reports := rfl
@[simp] theorem setSlot_drawCount (n : Fin 16) (w : Word) : (s.setSlot n w).drawCount = s.drawCount := rfl
@[simp] theorem setSlot_coupling (n : Fin 16) (w : Word) : (s.setSlot n w).coupling = s.coupling := rfl
@[simp] theorem setSlot_font (n : Fin 16) (w : Word) : (s.setSlot n w).font = s.font := rfl
@[simp] theorem setSlot_byteAt (n : Fin 16) (w : Word) (a : Nat) : (s.setSlot n w).byteAt a = s.byteAt a := rfl
@[simp] theorem setSlot_reg (n : Fin 16) (w : Word) (r : Reg) : (s.setSlot n w).reg r = s.reg r := rfl
@[simp] theorem setSlot_key (n : Fin 16) (w : Word) (k : Fin 16) : (s.setSlot n w).key k = s.key k := rfl

@[simp] theorem setDt_regs (b : Byte) : (s.setDt b).regs = s.regs := rfl
@[simp] theorem setDt_index (b : Byte) : (s.setDt b).index = s.index := rfl
@[simp] theorem setDt_pc (b : Byte) : (s.setDt b).pc = s.pc := rfl
@[simp] theorem setDt_sp (b : Byte) : (s.setDt b).sp = s.sp := rfl
@[simp] theorem setDt_stack (b : Byte) : (s.setDt b).stack = s.stack := rfl
@[simp] theorem setDt_dt (b : Byte) : (s.setDt b).dt = b := rfl
@[simp] theorem setDt_st (b : Byte) : (s.setDt b).st = s.st := rfl
@[simp] theorem setDt_mem (b : Byte) : (s.setDt b).mem = s.mem := rfl
@[simp] theorem setDt_display (b : Byte) : (s.setDt b).display = s.display := rfl
@[simp] theorem setDt_keys (b : Byte) : (s.setDt b).keys = s.keys := rfl
@[simp] theorem setDt_status (b : Byte) : (s.setDt b).status = s.status := rfl
@[simp] theorem setDt_reports (b : Byte) : (s.setDt b).reports = s.reports := rfl
@[simp] theorem setDt_drawCount (b : Byte) : (s.setDt b).drawCount = s.drawCount := rfl
@[simp] theorem setDt_coupling (b : Byte) : (s.setDt b).coupling = s.coupling := rfl
@[simp] theorem setDt_font (b : Byte) : (s.setDt b).font = s.font := rfl
@[simp] theorem setDt_byteAt (b : Byte) (a : Nat) : (s.setDt b).byteAt a = s.byteAt a := rfl
@[simp] theorem setDt_reg (b : Byte) (r : Reg) : (s.setDt b).reg r = s.reg r := rfl
@[simp] theorem setDt_slot (b : Byte) (k : Fin 16) : (s.setDt b).slot k = s.slot k := rfl
@[simp] theorem setDt_key (b : Byte) (k : Fin 16) : (s.setDt b).key k = s.key k := rfl

@[simp] theorem setSt_regs (b : Byte) : (s.setSt b).regs = s.regs := rfl
@[simp] theorem setSt_index (b : Byte) : (s.setSt b).index = s.index := rfl
@[simp] theorem setSt_pc (b : Byte) : (s.setSt b).pc = s.pc := rfl
@[simp] theorem setSt_sp (b : Byte) : (s.setSt b).sp = s.sp := rfl
@[simp] theorem setSt_stack (b : Byte) : (s.setSt b).stack = s.stack := rfl
@[simp] theorem setSt_dt (b : Byte) : (s.setSt b).dt = s.dt := rfl
@[simp] theorem setSt_st (b : Byte) : (s.setSt b).st = b := rfl
@[simp] theorem setSt_mem (b : Byte) : (s.setSt b).mem = s.mem := rfl
@[simp] theorem setSt_display (b : Byte) : (s.setSt b).display = s.display := rfl
@[simp] theorem setSt_keys (b : Byte) : (s.setSt b).keys = s.keys := rfl
@[simp] theorem setSt_status (b : Byte) : (s.setSt b).status = s.status := rfl
@[simp] theorem setSt_reports (b : Byte) : (s.setSt b).reports = s.reports := rfl
@[simp] theorem setSt_drawCount (b : Byte) : (s.setSt b).drawCount = s.drawCount := rfl
@[simp] theorem setSt_coupling (b : Byte) : (s.setSt b).coupling = s.coupling := rfl
@[simp] theorem setSt_font (b : Byte) : (s.setSt b).font = s.font := rfl
@[simp] theorem setSt_byteAt (b : Byte) (a : Nat) : (s.setSt b).byteAt a = s.byteAt a := rfl
@[simp] theorem setSt_reg (b : Byte) (r : Reg) : (s.setSt b).reg r = s.reg r := rfl
@[simp] theorem setSt_slot (b : Byte) (k : Fin 16) : (s.setSt b).slot k = s.slot k := rfl
@[simp] theorem setSt_key (b : Byte) (k : Fin 16) : (s.setSt b).key k = s.key k := rfl

@[simp] theorem setMem_regs (m : Memory) : (s.setMem m).regs = s.regs := rfl
@[simp] theorem setMem_index (m : Memory) : (s.setMem m).index = s.index := rfl
@[simp] theorem setMem_pc (m : Memory) : (s.setMem m).pc = s.pc := rfl
@[simp] theorem setMem_sp (m : Memory) : (s.setMem m).sp = s.sp := rfl
@[simp] theorem setMem_stack (m : Memory) : (s.setMem m).stack = s.stack := rfl
@[simp] theorem setMem_dt (m : Memory) : (s.setMem m).dt = s.dt := rfl
@[simp] theorem setMem_st (m : Memory) : (s.setMem m).st = s.st := rfl
@[simp] theorem setMem_mem (m : Memory) : (s.setMem m).mem = m := rfl
@[simp] theorem setMem_display (m : Memory) : (s.setMem m).display = s.display := rfl
@[simp] theorem setMem_keys (m : Memory) : (s.setMem m).keys = s.keys := rfl
@[simp] theorem setMem_status (m : Memory) : (s.setMem m).status = s.status := rfl
@[simp] theorem setMem_reports (m : Memory) : (s.setMem m).reports = s.reports := rfl
@[simp] theorem setMem_drawCount (m : Memory) : (s.setMem m).drawCount = s.drawCount := rfl
@[simp] theorem setMem_coupling (m : Memory) : (s.setMem m).coupling = s.coupling := rfl
@[simp] theorem setMem_font (m : Memory) : (s.setMem m).font = s.font := rfl
@[simp] theorem setMem_byteAt (m : Memory) (a : Nat) : (s.setMem m).byteAt a = m.byteAt s.font a := rfl
@[simp] theorem setMem_reg (m : Memory) (r : Reg) : (s.setMem m).reg r = s.reg r := rfl
@[simp] theorem setMem_slot (m : Memory) (k : Fin 16) : (s.setMem m).slot k = s.slot k := rfl
@[simp] theorem setMem_key (m : Memory) (k : Fin 16) : (s.setMem m).key k = s.key k := rfl

@[simp] theorem setDisplay_regs (d : Display) : (s.setDisplay d).regs = s.regs := rfl
@[simp] theorem setDisplay_index (d : Display) : (s.setDisplay d).index = s.index := rfl
@[simp] theorem setDisplay_pc (d : Display) : (s.setDisplay d).pc = s.pc := rfl
@[simp] theorem setDisplay_sp (d : Display) : (s.setDisplay d).sp = s.sp := rfl
@[simp] theorem setDisplay_stack (d : Display) : (s.setDisplay d).stack = s.stack := rfl
@[simp] theorem setDisplay_dt (d : Display) : (s.setDisplay d).dt = s.dt := rfl
@[simp] theorem setDisplay_st (d : Display) : (s.setDisplay d).st = s.st := rfl
@[simp] theorem setDisplay_mem (d : Display) : (s.setDisplay d).mem = s.mem := rfl
@[simp] theorem setDisplay_display (d : Display) : (s.setDisplay d).display = d := rfl
@[simp] theorem setDisplay_keys (d : Display) : (s.setDisplay d).keys = s.keys := rfl
@[simp] theorem setDisplay_status (d : Display) : (s.setDisplay d).status = s.status := rfl
@[simp] theorem setDisplay_reports (d : Display) : (s.setDisplay d).reports = s.reports := rfl
@[simp] theorem setDisplay_drawCount (d : Display) : (s.setDisplay d).drawCount = s.drawCount := rfl
@[simp] theorem setDisplay_coupling (d : Display) : (s.setDisplay d).coupling = s.coupling := rfl
@[simp] theorem setDisplay_font (d : Display) : (s.setDisplay d).font = s.font := rfl
@[simp] theorem setDisplay_byteAt (d : Display) (a : Nat) : (s.setDisplay d).byteAt a = s.byteAt a := rfl
@[simp] theorem setDisplay_reg (d : Display) (r : Reg) : (s.setDisplay d).reg r = s.reg r := rfl
@[simp] theorem setDisplay_slot (d : Display) (k : Fin 16) : (s.setDisplay d).slot k = s.slot k := rfl
@[simp] theorem setDisplay_key (d : Display) (k : Fin 16) : (s.setDisplay d).key k = s.key k := rfl

@[simp] theorem setKey_regs (n : Fin 16) (b : Bool) : (s.setKey n b).regs = s.regs := rfl
@[simp] theorem setKey_index (n : Fin 16) (b : Bool) : (s.setKey n b).index = s.index := rfl
@[simp] theorem setKey_pc (n : Fin 16) (b : Bool) : (s.setKey n b).pc = s.pc := rfl
@[simp] theorem setKey_sp (n : Fin 16) (b : Bool) : (s.setKey n b).sp = s.sp := rfl
@[simp] theorem setKey_stack (n : Fin 16) (b : Bool) : (s.setKey n b).stack = s.stack := rfl
@[simp] theorem setKey_dt (n : Fin 16) (b : Bool) : (s.setKey n b).dt = s.dt := rfl
@[simp] theorem setKey_st (n : Fin 16) (b : Bool) : (s.setKey n b).st = s.st := rfl
@[simp] theorem setKey_mem (n : Fin 16) (b : Bool) : (s.setKey n b).mem = s.mem := rfl
@[simp] theorem setKey_display (n : Fin 16) (b : Bool) : (s.setKey n b).display = s.display := rfl
@[simp] theorem setKey_status (n : Fin 16) (b : Bool) : (s.setKey n b).status = s.status := rfl
@[simp] theorem setKey_reports (n : Fin 16) (b : Bool) : (s.setKey n b).reports = s.reports := rfl
@[simp] theorem setKey_drawCount (n : Fin 16) (b : Bool) : (s.setKey n b).drawCount = s.drawCount := rfl
@[simp] theorem setKey_coupling (n : Fin 16) (b : Bool) : (s.setKey n b).coupling = s.coupling := rfl
@[simp] theorem setKey_font (n : Fin 16) (b : Bool) : (s.setKey n b).font = s.font := rfl
@[simp] theorem setKey_byteAt (n : Fin 16) (b : Bool) (a : Nat) : (s.setKey n b).byteAt a = s.byteAt a := rfl
@[simp] theorem setKey_reg (n : Fin 16) (b : Bool) (r : Reg) : (s.setKey n b).reg r = s.reg r := rfl
@[simp] theorem setKey_slot (n : Fin 16) (b : Bool) (k : Fin 16) : (s.setKey n b).slot k = s.slot k := rfl

@[simp] theorem setStatus_regs (q : Status) : (s.setStatus q).regs = s.regs := rfl
@[simp] theorem setStatus_index (q : Status) : (s.setStatus q).index = s.index := rfl
@[simp] theorem setStatus_pc (q : Status) : (s.setStatus q).pc = s.pc := rfl
@[simp] theorem setStatus_sp (q : Status) : (s.setStatus q).sp = s.sp := rfl
@[simp] theorem setStatus_stack (q : Status) : (s.setStatus q).stack = s.stack := rfl
@[simp] theorem setStatus_dt (q : Status) : (s.setStatus q).dt = s.dt := rfl
@[simp] theorem setStatus_st (q : Status) : (s.setStatus q).st = s.st := rfl
@[simp] theorem setStatus_mem (q : Status) : (s.setStatus q).mem = s.mem := rfl
@[simp] theorem setStatus_display (q : Status) : (s.setStatus q).display = s.display := rfl
@[simp] theorem setStatus_keys (q : Status) : (s.setStatus q).keys = s.keys := rfl
@[simp] theorem setStatus_status (q : Status) : (s.setStatus q).status = q := rfl
@[simp] theorem setStatus_reports (q : Status) : (s.setStatus q).reports = s.reports := rfl
@[simp] theorem setStatus_drawCount (q : Status) : (s.setStatus q).drawCount = s.drawCount := rfl
@[simp] theorem setStatus_coupling (q : Status) : (s.setStatus q).coupling = s.coupling := rfl
@[simp] theorem setStatus_font (q : Status) : (s.setStatus q).font = s.font := rfl
@[simp] theorem setStatus_byteAt (q : Status) (a : Nat) : (s.setStatus q).byteAt a = s.byteAt a := rfl
@[simp] theorem setStatus_reg (q : Status) (r : Reg) : (s.setStatus q).reg r = s.reg r := rfl
@[simp] theorem setStatus_slot (q : Status) (k : Fin 16) : (s.setStatus q).slot k = s.slot k := rfl
@[simp] theorem setStatus_key (q : Status) (k : Fin 16) : (s.setStatus q).key k = s.key k := rfl

@[simp] theorem addReport_regs (q : Report) : (s.addReport q).regs = s.regs := rfl
@[simp] theorem addReport_index (q : Report) : (s.addReport q).index = s.index := rfl
@[simp] theorem addReport_pc (q : Report) : (s.addReport q).pc = s.pc := rfl
@[simp] theorem addReport_sp (q : Report) : (s.addReport q).sp = s.sp := rfl
@[simp] theorem addReport_stack (q : Report) : (s.addReport q).stack = s.stack := rfl
@[simp] theorem addReport_dt (q : Report) : (s.addReport q).dt = s.dt := rfl
@[simp] theorem addReport_st (q : Report) : (s.addReport q).st = s.st := rfl
@[simp] theorem addReport_mem (q : Report) : (s.addReport q).mem = s.mem := rfl
@[simp] theorem addReport_display (q : Report) : (s.addReport q).display = s.display := rfl
@[simp] theorem addReport_keys (q : Report) : (s.addReport q).keys = s.keys := rfl
@[simp] theorem addReport_status (q : Report) : (s.addReport q).status = s.status := rfl
@[simp] theorem addReport_reports (q : Report) : (s.addReport q).reports = s.reports ++ [q] := rfl
@[simp] theorem addReport_drawCount (q : Report) : (s.addReport q).drawCount = s.drawCount := rfl
@[simp] theorem addReport_coupling (q : Report) : (s.addReport q).coupling = s.coupling := rfl
@[simp] theorem addReport_font (q : Report) : (s.addReport q).font = s.font := rfl
@[simp] theorem addReport_byteAt (q : Report) (a : Nat) : (s.addReport q).byteAt a = s.byteAt a := rfl
@[simp] theorem addReport_reg (q : Report) (r : Reg) : (s.addReport q).reg r = s.reg r := rfl
@[simp] theorem addReport_slot (q : Report) (k : Fin 16) : (s.addReport q).slot k = s.slot k := rfl
@[simp] theorem addReport_key (q : Report) (k : Fin 16) : (s.addReport q).key k = s.key k := rfl

@[simp] theorem countDraw_regs : s.countDraw.regs = s.regs := rfl
@[simp] theorem countDraw_index : s.countDraw.index = s.index := rfl
@[simp] theorem countDraw_pc : s.countDraw.pc = s.pc := rfl
@[simp] theorem countDraw_sp : s.countDraw.sp = s.sp := rfl
@[simp] theorem countDraw_stack : s.countDraw.stack = s.stack := rfl
@[simp] theorem countDraw_dt : s.countDraw.dt = s.dt := rfl
@[simp] theorem countDraw_st : s.countDraw.st = s.st := rfl
@[simp] theorem countDraw_mem : s.countDraw.mem = s.mem := rfl
@[simp] theorem countDraw_display : s.countDraw.display = s.display := rfl
@[simp] theorem countDraw_keys : s.countDraw.keys = s.keys := rfl
@[simp] theorem countDraw_status : s.countDraw.status = s.status := rfl
@[simp] theorem countDraw_reports : s.countDraw.reports = s.reports := rfl
@[simp] theorem countDraw_drawCount : s.countDraw.drawCount = s.drawCount + 1 := rfl
@[simp] theorem countDraw_coupling : s.countDraw.coupling = s.coupling := rfl
@[simp] theorem countDraw_font : s.countDraw.font = s.font := rfl
@[simp] theorem countDraw_byteAt (a : Nat) : s.countDraw.byteAt a = s.byteAt a := rfl
@[simp] theorem countDraw_reg (r : Reg) : s.countDraw.reg r = s.reg r := rfl
@[simp] theorem countDraw_slot (k : Fin 16) : s.countDraw.slot k = s.slot k := rfl
@[simp] theorem countDraw_key (k : Fin 16) : s.countDraw.key k = s.key k := rfl

/-- A cell of the state's memory is read with the state's font. -/
theorem mem_byteAt (a : Nat) : s.mem.byteAt s.font a = s.byteAt a := rfl

/-- Read after write of a general register (R20). -/
@[simp] theorem reg_setReg (x r : Reg) (b : Byte) : (s.setReg x b).reg r = if x = r then b else s.reg r := by
  simp only [reg, setReg, Vector.getElem_set, Fin.ext_iff]

/-- Read after write of a stack slot (R25). -/
@[simp] theorem slot_setSlot (n k : Fin 16) (w : Word) : (s.setSlot n w).slot k = if n = k then w else s.slot k := by
  simp only [slot, setSlot, Vector.getElem_set, Fin.ext_iff]

/-- Read after write of a key flag (R31). -/
@[simp] theorem key_setKey (n k : Fin 16) (b : Bool) : (s.setKey n b).key k = if n = k then b else s.key k := by
  simp only [key, setKey, Vector.getElem_set, Fin.ext_iff]

end Sys2Proof.Machine.State
end

