-- ==== Sys2Proof/Laws/Ops.lean ====
section
/-! SUPPORT. What each shared operation can do, said once: the PC policy, flags, raising, reporting, the fetch, the tick. -/

namespace Sys2Proof.Machine

/-! ### The PC policy and the register writes -/

@[simp] theorem State.advance_pc (s : State) : s.advance.pc = s.pc + 2 := rfl
@[simp] theorem State.advance_reg (s : State) (r : Reg) : s.advance.reg r = s.reg r := rfl
@[simp] theorem State.advance_byteAt (s : State) (a : Nat) : s.advance.byteAt a = s.byteAt a := rfl

/-- The skip policy: only PC changes (R104). -/
theorem State.skipIf_eq (s : State) (holds : Bool) :
    s.skipIf holds = { s with pc := if holds then s.pc + 4 else s.pc + 2 } := rfl

/-- A result with no flag: the destination and PC change, and nothing else. -/
theorem State.writeNoFlag_eq (s : State) (x : Reg) (b : Byte) :
    s.writeNoFlag x b = { s with regs := s.regs.set x.val b, pc := s.pc + 2 } := rfl

@[simp] theorem State.writeNoFlag_reg (s : State) (x r : Reg) (b : Byte) :
    (s.writeNoFlag x b).reg r = if x = r then b else s.reg r := by
  simp [State.writeNoFlag]

/-- A result with a flag: VF holds the flag, whatever the destination (R140). -/
@[simp] theorem State.writeWithFlag_reg (s : State) (x r : Reg) (b : Byte) (f : Bool) :
    (s.writeWithFlag x b f).reg r = if regVF = r then flagByte f else if x = r then b else s.reg r := by
  simp [State.writeWithFlag]

/-- A result with a flag changes the register file and PC, and nothing else. -/
theorem State.writeWithFlag_eq (s : State) (x : Reg) (b : Byte) (f : Bool) :
    s.writeWithFlag x b f =
      { s with regs := (s.regs.set x.val b).set 15 (flagByte f), pc := s.pc + 2 } := rfl

/-- VF as a flag is exactly 0 or 1 (R21). -/
theorem flagByte_zero_or_one (f : Bool) : flagByte f = 0 ∨ flagByte f = 1 := by cases f <;> simp [flagByte]

@[simp] theorem flagByte_eq_one (f : Bool) : flagByte f = 1 ↔ f = true := by cases f <;> simp [flagByte]

/-! ### The fatal conditions and the report -/

/-- Raising changes nothing but STATUS (R257, R258). -/
theorem State.raise_eq (s : State) (cause : Cause) (op : Option Word) (addr : Option Nat) :
    s.raise cause op addr =
      { s with status := if s.status.halted then s.status
                         else { halted := true, cause := cause, errPc := s.pc, errOp := op, errAddr := addr } } := by
  unfold State.raise
  split <;> rfl

/-- After raising, the engine is halted (R257). -/
theorem State.raise_halted (s : State) (cause : Cause) (op : Option Word) (addr : Option Nat) :
    (s.raise cause op addr).status.halted = true := by
  rw [State.raise_eq]
  by_cases h : s.status.halted = true <;> simp [h]

/-- The first record is kept (R257, R260). -/
theorem State.raise_of_halted (s : State) (cause : Cause) (op : Option Word) (addr : Option Nat)
    (h : s.status.halted = true) : s.raise cause op addr = s := by
  simp [State.raise, h]

@[simp] theorem State.raise_byteAt (s : State) (cause : Cause) (op : Option Word) (addr : Option Nat) (a : Nat) :
    (s.raise cause op addr).byteAt a = s.byteAt a := by
  rw [State.raise_eq]; rfl

/-- An invalid opcode changes the reports and PC, and nothing else (R105). -/
theorem State.invalidOpcode_eq (s : State) (op : Word) :
    s.invalidOpcode op = { s with reports := s.reports ++ [{ op := op, pc := s.pc }], pc := s.pc + 2 } := rfl

/-! ### The fetch -/

/-- A fetch succeeds exactly when PC ≤ 4094, with the two bytes at PC and PC + 1 (R102). -/
theorem State.fetch_of_lt (s : State) (h : s.pc.toNat + 1 < Config.memSize) :
    s.fetch = .ok (wordOfBytes (s.byteAt s.pc.toNat) (s.byteAt (s.pc.toNat + 1))) := by
  have h0 : s.pc.toNat < Config.memSize := by omega
  simp [State.fetch, Memory.read, inRange, h, h0, State.byteAt]

/-- A fetch with PC > 4094 meets an out-of-range address: PC itself, or 4096 (R254). -/
theorem State.fetch_of_ge (s : State) (h : ¬ s.pc.toNat + 1 < Config.memSize) :
    s.fetch = .error (max s.pc.toNat Config.memSize) := by
  by_cases h0 : s.pc.toNat < Config.memSize
  · simp [State.fetch, Memory.read, inRange, h0, h]
    simp only [Config.memSize] at *; omega
  · simp [State.fetch, Memory.read, inRange, h0]
    simp only [Config.memSize] at *; omega

/-- A fetched word comes from PC ≤ 4094. -/
theorem State.lt_of_fetch_ok {s : State} {op : Word} (h : s.fetch = .ok op) : s.pc.toNat + 1 < Config.memSize := by
  by_contra hn
  rw [s.fetch_of_ge hn] at h
  cases h

/-- The two bytes of a word make the word (R54). -/
@[simp] theorem wordOfBytes_bytes (w : Word) : wordOfBytes (highByte w) (lowByte w) = w := by
  apply BitVec.eq_of_getLsbD_eq
  intro i hi
  simp only [wordOfBytes, highByte, lowByte, BitVec.getLsbD_append, BitVec.getLsbD_extractLsb']
  by_cases h8 : i < 8
  · simp [h8]
  · simp [h8, show i - 8 < 8 by omega, show 8 + (i - 8) = i by omega]

/-- The word placed at PC is the word fetched. -/
theorem State.fetch_placeWord (s : State) (op : Word) (h : s.pc.toNat + 1 < Config.memSize) :
    (s.placeWord op).fetch = .ok op := by
  rw [State.fetch_of_lt (s.placeWord op) h]
  simp [State.placeWord, Memory.putBytes]

/-! ### The timers -/

/-- A timer counts down and stays at 0 (R213). -/
theorem toNat_countDown (x : Byte) : (countDown x).toNat = x.toNat - 1 := by
  unfold countDown
  split
  · rename_i h; simp [h]
  · rename_i h
    have : x.toNat ≠ 0 := fun h0 => h (BitVec.eq_of_toNat_eq (by simpa using h0))
    have := x.isLt
    rw [BitVec.toNat_sub_of_le (by rw [BitVec.le_def]; simpa using by omega)]
    rfl

/-- TimerTick changes DT and ST, and nothing else (R213). -/
theorem State.tick_eq (s : State) : s.tick = { s with dt := countDown s.dt, st := countDown s.st } := rfl

end Sys2Proof.Machine
end

