-- ==== Sys2Proof/Laws/Operands.lean ====
section
/-! SUPPORT. Operand forms: the range at I, the block V[0]..V[x], the lowest pressed key, zero extension. -/

namespace Sys2Proof.Machine

@[simp] theorem toNat_zext16 (nnn : Address) : (zext16 nnn).toNat = nnn.toNat := by
  have := nnn.isLt
  simp only [zext16, BitVec.toNat_setWidth]; omega

/-- The range check of R176: the whole range lies in memory, or nothing is accessed. -/
theorem State.indexRangeOk_iff (s : State) (n : Nat) :
    s.indexRangeOk n = true ↔ n = 0 ∨ s.index.toNat + n ≤ Config.memSize := by
  simp [State.indexRangeOk, rangeInBounds]

/-- A store at I changes exactly the bytes from I on, in ascending order (R176). -/
theorem State.storeAtIndex_byteAt (s : State) (bs : List Byte) (a : Nat) :
    (s.storeAtIndex bs).byteAt a =
      if h : s.index.toNat ≤ a ∧ a - s.index.toNat < bs.length then bs[a - s.index.toNat]'h.2 else s.byteAt a :=
  Memory.byteAt_putBytes bs s.mem s.index.toNat a

/-- Outside the bytes stored at I nothing changes. -/
theorem State.storeAtIndex_byteAt_outside (s : State) (bs : List Byte) (a : Nat)
    (h : a < s.index.toNat ∨ s.index.toNat + bs.length ≤ a) : (s.storeAtIndex bs).byteAt a = s.byteAt a :=
  Memory.byteAt_putBytes_outside bs s.mem s.index.toNat a h

@[simp] theorem State.length_regBlock (s : State) (x : Reg) : (s.regBlock x).length = x.val + 1 := by
  simp only [State.regBlock, List.length_take, Vector.length_toList]; omega

theorem State.getElem_regBlock (s : State) (x : Reg) (r : Nat) (h : r < (s.regBlock x).length) :
    (s.regBlock x)[r] = s.reg ⟨r, by have := x.isLt; simp at h; omega⟩ := by
  simp [State.regBlock, State.reg, List.getElem_take]

/-- The registers from `first` on take the loaded bytes; the others keep theirs (R175). -/
theorem getElem_loadBlock (bs : List Byte) : ∀ (v : Vector Byte 16) (first r : Nat) (hr : r < 16),
    (loadBlock v first bs)[r] =
      if h : first ≤ r ∧ r - first < bs.length then bs[r - first]'h.2 else v[r] := by
  induction bs with
  | nil => intro v first r hr; simp [loadBlock]
  | cons b bs ih =>
    intro v first r hr
    rw [loadBlock, ih]
    by_cases hlt : r < first
    · rw [dif_neg (by omega), dif_neg (by omega), Vector.getElem_setIfInBounds_ne]; omega
    · by_cases heq : r = first
      · subst heq
        rw [dif_neg (by omega), dif_pos ⟨by omega, by simp⟩]
        simp
      · obtain ⟨d, rfl⟩ : ∃ d, r = first + 1 + d := ⟨r - (first + 1), by omega⟩
        have h3 : first + 1 + d - (first + 1) = d := by omega
        have h4 : first + 1 + d - first = d + 1 := by omega
        simp only [h3, h4, List.length_cons, List.getElem_cons_succ]
        by_cases hd : d < bs.length
        · rw [dif_pos ⟨by omega, hd⟩, dif_pos ⟨by omega, by omega⟩]
        · rw [dif_neg (by omega), dif_neg (by omega), Vector.getElem_setIfInBounds_ne]; omega

/-- REGISTER-LOAD's writes: the first `n` registers take the bytes at I, I + 1, ..., the others keep theirs (R175). -/
theorem State.setRegs_loadBlock_reg (s : State) (n : Nat) (r : Reg) :
    (s.setRegs (loadBlock s.regs 0 (s.bytesAtIndex n))).reg r =
      if r.val < n then s.byteAt (s.index.toNat + r.val) else s.reg r := by
  show (loadBlock s.regs 0 (s.mem.bytesFrom s.font s.index.toNat n))[r.val] = _
  rw [getElem_loadBlock]
  by_cases h : r.val < n
  · rw [dif_pos (by simpa using h), if_pos h, Memory.getElem_bytesFrom]; simp [State.byteAt]
  · rw [dif_neg (by simpa using h), if_neg h]; rfl

/-- No key is pressed: WAIT-FOR-KEY's retry condition (R203). -/
theorem State.lowestPressedKey_eq_none (s : State) : s.lowestPressedKey = none ↔ ∀ k : Fin 16, s.key k = false := by
  simp only [State.lowestPressedKey, List.findIdx?_eq_none_iff, State.key]
  constructor
  · intro h k
    exact h _ (by simp)
  · intro h b hb
    obtain ⟨n, hn, rfl⟩ := List.getElem_of_mem hb
    have hn' : n < 16 := by simpa using hn
    simpa using h ⟨n, hn'⟩

/-- The key found is pressed, and no lower one is (R203). -/
theorem State.lowestPressedKey_eq_some (s : State) (k : Fin 16) :
    s.lowestPressedKey = some k.val ↔ s.key k = true ∧ ∀ j : Fin 16, j < k → s.key j = false := by
  simp only [State.lowestPressedKey, List.findIdx?_eq_some_iff_getElem, State.key]
  constructor
  · rintro ⟨h, hk, hj⟩
    refine ⟨by simpa using hk, fun j hlt => ?_⟩
    simpa using hj j.val hlt
  · rintro ⟨hk, hj⟩
    refine ⟨by simp, by simpa using hk, fun j hlt => ?_⟩
    have := hj ⟨j, by omega⟩ hlt
    simpa using this

/-- A key found is one of the 16. -/
theorem State.lt_of_lowestPressedKey {s : State} {k : Nat} (h : s.lowestPressedKey = some k) : k < 16 := by
  simp only [State.lowestPressedKey, List.findIdx?_eq_some_iff_getElem] at h
  simpa using h.1

end Sys2Proof.Machine
end

