-- ==== Sys2Proof/Laws/Cycle.lean ====
section
/-! SUPPORT. What one cycle can do, case by case (40_fetch_dispatch.md R101 to R105), and a run as its first cycle and the
rest. -/

namespace Sys2Proof.Machine

/-- The halted no-op (R101). -/
theorem step_of_halted {s : State} (h : s.status.halted = true) : step s = .next s := by
  simp [step, runCycle, h]

/-- A cycle ends with a tick under `perCycle` alone (R108, R214). -/
theorem State.closeCycle_eq (s : State) : s.closeCycle = if s.coupling = .perCycle then s.tick else s := by
  unfold State.closeCycle
  split <;> rename_i hc <;> simp [hc]

/-- The end of a cycle changes the timers alone. -/
theorem State.closeCycle_timers (s : State) :
    s.closeCycle = { s with dt := s.closeCycle.dt, st := s.closeCycle.st } := by
  rw [State.closeCycle_eq]
  split <;> rfl

/-- The failed fetch: STATUS takes the address, the cycle ends, and nothing else changes (R102, R254). -/
theorem step_of_fetch_error {s : State} {a : Nat} (hs : s.status.halted = false) (hf : s.fetch = .error a) :
    step s = .next { s with status :=
      { halted := true, cause := .outOfRange, errPc := s.pc, errOp := none, errAddr := some a } }.closeCycle := by
  simp only [step, runCycle, hs, hf, closeResult, Bool.false_eq_true, if_false]
  rw [State.raiseNoWord, State.raise_eq]; simp [hs]

/-- The cycle of an instruction (R103). -/
theorem step_of_decode {s : State} {op : Word} {i : Instr} (hs : s.status.halted = false) (hf : s.fetch = .ok op)
    (hd : decodeWord op = .ok i) : step s = closeResult (exec i s) := by
  simp [step, runCycle, hs, hf, State.dispatchWord, hd]

/-- The cycle of an invalid opcode (R105). -/
theorem step_of_invalid {s : State} {op : Word} {r : Reject} (hs : s.status.halted = false) (hf : s.fetch = .ok op)
    (hd : decodeWord op = .error r) : step s = .next (s.invalidOpcode op).closeCycle := by
  simp [step, runCycle, hs, hf, State.dispatchWord, hd, closeResult]

/-- Every cycle is one of the four. -/
theorem step_cases (s : State) :
    (s.status.halted = true ∧ step s = .next s) ∨
    (s.status.halted = false ∧ ∃ a, s.fetch = .error a ∧ step s = .next { s with status :=
      { halted := true, cause := .outOfRange, errPc := s.pc, errOp := none, errAddr := some a } }.closeCycle) ∨
    (s.status.halted = false ∧ ∃ op i, s.fetch = .ok op ∧ decodeWord op = .ok i ∧ step s = closeResult (exec i s)) ∨
    (s.status.halted = false ∧ ∃ op r, s.fetch = .ok op ∧ decodeWord op = .error r ∧
      step s = .next (s.invalidOpcode op).closeCycle) := by
  cases hs : s.status.halted
  · cases hf : s.fetch with
    | error a => exact .inr (.inl ⟨rfl, a, rfl, step_of_fetch_error hs hf⟩)
    | ok op =>
      cases hd : decodeWord op with
      | ok i => exact .inr (.inr (.inl ⟨rfl, op, i, rfl, hd, step_of_decode hs hf hd⟩))
      | error r => exact .inr (.inr (.inr ⟨rfl, op, r, rfl, hd, step_of_invalid hs hf hd⟩))
  · exact .inl ⟨rfl, step_of_halted hs⟩

/-! ### Runs -/

theorem run_zero (s : State) : Host.Core.run Sys2Proof.core 0 s = .next s := rfl

/-- A run is its first cycle and then the rest. -/
theorem run_next {s t : State} (h : step s = .next t) (n : Nat) :
    Host.Core.run Sys2Proof.core (n + 1) s = Host.Core.run Sys2Proof.core n t := by
  rw [show Host.Core.run Sys2Proof.core (n + 1) s = _ from Host.Core.run.eq_2 Sys2Proof.core s n,
    show Sys2Proof.core.step s = .next t from h]

end Sys2Proof.Machine
end

