-- ==== Sys2Proof/Laws/Display.lean ====
section
/-! SUPPORT. Pixels: what toggling one pixel does (44_display.md R191). -/

namespace Sys2Proof.Machine

/-- Toggling a pixel changes that pixel and no other. -/
@[simp] theorem Display.pixel_toggle (d : Display) (cx cx' : Fin 64) (cy cy' : Fin 32) :
    (d.toggle cx cy).pixel cx' cy' = if cx = cx' ∧ cy = cy' then !(d.pixel cx cy) else d.pixel cx' cy' := by
  simp only [Display.toggle, Display.pixel, Vector.getElem_set, Fin.ext_iff]
  by_cases hy : cy.val = cy'.val
  · by_cases hx : cx.val = cx'.val
    · simp [hx, hy]
    · simp [hx, hy]
  · simp [hy]

/-- The cleared grid (R192). -/
@[simp] theorem Display.pixel_blank (cx : Fin 64) (cy : Fin 32) : Display.blank.pixel cx cy = false := by
  simp [Display.blank, Display.pixel]

/-- Two grids with the same pixels are the same grid. -/
theorem Display.ext_pixel {d e : Display} (h : ∀ cx cy, d.pixel cx cy = e.pixel cx cy) : d = e := by
  apply Vector.ext
  intro i hi
  apply Vector.ext
  intro j hj
  exact h ⟨j, hj⟩ ⟨i, hi⟩

/-- One pixel of a sprite (R191): a set sprite bit toggles, and collides with a set pixel. -/
theorem Canvas.drawPixel_eq (k : Canvas) (bit : Bool) (cx : Fin 64) (cy : Fin 32) :
    (k.drawPixel bit cx cy).collision = (k.collision || (bit && k.display.pixel cx cy)) ∧
      ∀ cx' cy', (k.drawPixel bit cx cy).display.pixel cx' cy' =
        if cx = cx' ∧ cy = cy' then (k.display.pixel cx cy ^^ bit) else k.display.pixel cx' cy' := by
  cases bit
  · refine ⟨by simp [Canvas.drawPixel], fun cx' cy' => ?_⟩
    by_cases h : cx = cx' ∧ cy = cy'
    · simp [Canvas.drawPixel, h]
    · simp [Canvas.drawPixel, h]
  · refine ⟨by simp [Canvas.drawPixel], fun cx' cy' => ?_⟩
    by_cases h : cx = cx' ∧ cy = cy'
    · simp [Canvas.drawPixel, h]
    · simp [Canvas.drawPixel, h]

end Sys2Proof.Machine
end

