-- ==== Sys2Proof/Laws/Encoding.lean ====
section
/-! SUPPORT. The formats of R72: each field of a word, a word from its fields, and a word under a mask of the table. -/

namespace Sys2Proof

@[simp] theorem regOf_nibbleOf (x : Reg) : regOf (nibbleOf x) = x := by
  apply Fin.ext
  simp only [regOf, nibbleOf, BitVec.toNat_ofNat]
  omega

@[simp] theorem nibbleOf_regOf (n : Nibble) : nibbleOf (regOf n) = n := by
  apply BitVec.eq_of_toNat_eq
  have := n.isLt
  simp only [regOf, nibbleOf, BitVec.toNat_ofNat]
  omega

/-! ### The formats as numbers -/

theorem toNat_formatA (f : Nibble) (nnn : Address) : (formatA f nnn).toNat = f.toNat * 4096 + nnn.toNat := by
  have := nnn.isLt
  rw [formatA, BitVec.toNat_append, ← Nat.shiftLeft_add_eq_or_of_lt this, Nat.shiftLeft_eq]

theorem toNat_formatXK (f x : Nibble) (kk : Byte) :
    (formatXK f x kk).toNat = f.toNat * 4096 + x.toNat * 256 + kk.toNat := by
  have hx := x.isLt
  have hk := kk.isLt
  rw [formatXK, BitVec.toNat_append, ← Nat.shiftLeft_add_eq_or_of_lt hk, Nat.shiftLeft_eq, BitVec.toNat_append,
    ← Nat.shiftLeft_add_eq_or_of_lt hx, Nat.shiftLeft_eq]
  omega

theorem toNat_formatXYN (f x y n : Nibble) :
    (formatXYN f x y n).toNat = f.toNat * 4096 + x.toNat * 256 + y.toNat * 16 + n.toNat := by
  have hx := x.isLt
  have hy := y.isLt
  have hn := n.isLt
  rw [formatXYN, BitVec.toNat_append, ← Nat.shiftLeft_add_eq_or_of_lt hn, Nat.shiftLeft_eq, BitVec.toNat_append,
    ← Nat.shiftLeft_add_eq_or_of_lt hy, Nat.shiftLeft_eq, BitVec.toNat_append,
    ← Nat.shiftLeft_add_eq_or_of_lt hx, Nat.shiftLeft_eq]
  omega

/-! ### The fields as numbers -/

theorem toNat_familyField (op : Word) : (familyField op).toNat = op.toNat / 4096 := by
  have := op.isLt
  simp only [familyField, BitVec.extractLsb'_toNat, Nat.shiftRight_eq_div_pow]; omega

theorem toNat_xField (op : Word) : (xField op).toNat = op.toNat / 256 % 16 := by
  simp only [xField, BitVec.extractLsb'_toNat, Nat.shiftRight_eq_div_pow]

theorem toNat_yField (op : Word) : (yField op).toNat = op.toNat / 16 % 16 := by
  simp only [yField, BitVec.extractLsb'_toNat, Nat.shiftRight_eq_div_pow]

theorem toNat_nField (op : Word) : (nField op).toNat = op.toNat % 16 := by
  simp only [nField, BitVec.extractLsb'_toNat, Nat.shiftRight_eq_div_pow]; omega

theorem toNat_kkField (op : Word) : (kkField op).toNat = op.toNat % 256 := by
  simp only [kkField, BitVec.extractLsb'_toNat, Nat.shiftRight_eq_div_pow]; omega

theorem toNat_nnnField (op : Word) : (nnnField op).toNat = op.toNat % 4096 := by
  simp only [nnnField, BitVec.extractLsb'_toNat, Nat.shiftRight_eq_div_pow]; omega

/-! ### Each field of a word in each format -/

@[simp] theorem familyField_formatA (f : Nibble) (nnn : Address) : familyField (formatA f nnn) = f := by
  apply BitVec.eq_of_toNat_eq
  rw [toNat_familyField, toNat_formatA]; omega

@[simp] theorem nnnField_formatA (f : Nibble) (nnn : Address) : nnnField (formatA f nnn) = nnn := by
  apply BitVec.eq_of_toNat_eq
  rw [toNat_nnnField, toNat_formatA]; omega

@[simp] theorem familyField_formatXK (f x : Nibble) (kk : Byte) : familyField (formatXK f x kk) = f := by
  apply BitVec.eq_of_toNat_eq
  rw [toNat_familyField, toNat_formatXK]; omega

@[simp] theorem xField_formatXK (f x : Nibble) (kk : Byte) : xField (formatXK f x kk) = x := by
  apply BitVec.eq_of_toNat_eq
  rw [toNat_xField, toNat_formatXK]; omega

@[simp] theorem kkField_formatXK (f x : Nibble) (kk : Byte) : kkField (formatXK f x kk) = kk := by
  apply BitVec.eq_of_toNat_eq
  rw [toNat_kkField, toNat_formatXK]; omega

@[simp] theorem familyField_formatXYN (f x y n : Nibble) : familyField (formatXYN f x y n) = f := by
  apply BitVec.eq_of_toNat_eq
  rw [toNat_familyField, toNat_formatXYN]; omega

@[simp] theorem xField_formatXYN (f x y n : Nibble) : xField (formatXYN f x y n) = x := by
  apply BitVec.eq_of_toNat_eq
  rw [toNat_xField, toNat_formatXYN]; omega

@[simp] theorem yField_formatXYN (f x y n : Nibble) : yField (formatXYN f x y n) = y := by
  apply BitVec.eq_of_toNat_eq
  rw [toNat_yField, toNat_formatXYN]; omega

@[simp] theorem nField_formatXYN (f x y n : Nibble) : nField (formatXYN f x y n) = n := by
  apply BitVec.eq_of_toNat_eq
  rw [toNat_nField, toNat_formatXYN]; omega

/-! ### A word from its fields -/

theorem formatA_fields (op : Word) : formatA (familyField op) (nnnField op) = op := by
  apply BitVec.eq_of_toNat_eq
  rw [toNat_formatA, toNat_familyField, toNat_nnnField]; omega

theorem formatXK_fields (op : Word) : formatXK (familyField op) (xField op) (kkField op) = op := by
  apply BitVec.eq_of_toNat_eq
  rw [toNat_formatXK, toNat_familyField, toNat_xField, toNat_kkField]; omega

theorem formatXYN_fields (op : Word) : formatXYN (familyField op) (xField op) (yField op) (nField op) = op := by
  apply BitVec.eq_of_toNat_eq
  rw [toNat_formatXYN, toNat_familyField, toNat_xField, toNat_yField, toNat_nField]; omega

/-! ### A word under a mask of the opcode table -/

@[simp] theorem nibble_and_ones (f : Nibble) : f &&& 15#4 = f := by
  rw [show (15#4 : Nibble) = BitVec.allOnes 4 from rfl, BitVec.and_allOnes]

@[simp] theorem byte_and_ones (b : Byte) : b &&& 255#8 = b := by
  rw [show (255#8 : Byte) = BitVec.allOnes 8 from rfl, BitVec.and_allOnes]

theorem mask_address (f : Nibble) (nnn : Address) : formatA f nnn &&& 0xF000#16 = formatA f 0 := by
  rw [show 0xF000#16 = formatA 0xF#4 0 from rfl]
  simp only [formatA]
  rw [BitVec.and_append]; simp

theorem mask_xk (f x : Nibble) (kk : Byte) : formatXK f x kk &&& 0xF000#16 = formatXK f 0 0 := by
  rw [show 0xF000#16 = formatXK 0xF#4 0 0 from rfl]
  simp only [formatXK]
  rw [BitVec.and_append, BitVec.and_append]; simp

theorem mask_xs (f x : Nibble) (kk : Byte) : formatXK f x kk &&& 0xF0FF#16 = formatXK f 0 kk := by
  rw [show 0xF0FF#16 = formatXK 0xF#4 0 0xFF#8 from rfl]
  simp only [formatXK]
  rw [BitVec.and_append, BitVec.and_append]; simp

theorem mask_xyn (f x y n : Nibble) : formatXYN f x y n &&& 0xF000#16 = formatXYN f 0 0 0 := by
  rw [show 0xF000#16 = formatXYN 0xF#4 0 0 0 from rfl]
  simp only [formatXYN]
  rw [BitVec.and_append, BitVec.and_append, BitVec.and_append]; simp

theorem mask_xy (f x y n : Nibble) : formatXYN f x y n &&& 0xF00F#16 = formatXYN f 0 0 n := by
  rw [show 0xF00F#16 = formatXYN 0xF#4 0 0 0xF#4 from rfl]
  simp only [formatXYN]
  rw [BitVec.and_append, BitVec.and_append, BitVec.and_append]; simp

end Sys2Proof
end

