-- ==== Sys2Proof/Laws/PerInstr.lean ====
section
/-! SUPPORT. Per instruction: its word selects its own row of the opcode table (30_encoding.md R79). -/

namespace Sys2Proof.Laws.TableRow

/-- The word of the instruction selects a row of the table, and that row bears the instruction's mnemonic. -/
def Statement (i : Instr) : Prop :=
  ∃ r ∈ opcodeTable, r.mnemonic = i.mnemonic ∧ r.selects (encode i) = true

theorem cls : Statement .cls :=
  ⟨⟨"CLS", 0x00E0#16, 0xFFFF#16⟩, by decide, rfl, by decide⟩

theorem ret : Statement .ret :=
  ⟨⟨"RET", 0x00EE#16, 0xFFFF#16⟩, by decide, rfl, by decide⟩

theorem jp (nnn : Address) : Statement (.jp nnn) :=
  ⟨⟨"JP", 0x1000#16, 0xF000#16⟩, by decide, rfl, by simp only [OpcodeRow.selects, encode, mask_address]; decide⟩

theorem call (nnn : Address) : Statement (.call nnn) :=
  ⟨⟨"CALL", 0x2000#16, 0xF000#16⟩, by decide, rfl, by simp only [OpcodeRow.selects, encode, mask_address]; decide⟩

theorem seImm (x : Reg) (kk : Byte) : Statement (.seImm x kk) :=
  ⟨⟨"SE_imm", 0x3000#16, 0xF000#16⟩, by decide, rfl, by simp only [OpcodeRow.selects, encode, mask_xk]; decide⟩

theorem sneImm (x : Reg) (kk : Byte) : Statement (.sneImm x kk) :=
  ⟨⟨"SNE_imm", 0x4000#16, 0xF000#16⟩, by decide, rfl, by simp only [OpcodeRow.selects, encode, mask_xk]; decide⟩

theorem seReg (x : Reg) (y : Reg) (ign : Nibble) : Statement (.seReg x y ign) :=
  ⟨⟨"SE_reg", 0x5000#16, 0xF000#16⟩, by decide, rfl, by simp only [OpcodeRow.selects, encode, mask_xyn]; decide⟩

theorem ldImm (x : Reg) (kk : Byte) : Statement (.ldImm x kk) :=
  ⟨⟨"LD_imm", 0x6000#16, 0xF000#16⟩, by decide, rfl, by simp only [OpcodeRow.selects, encode, mask_xk]; decide⟩

theorem addImm (x : Reg) (kk : Byte) : Statement (.addImm x kk) :=
  ⟨⟨"ADD_imm", 0x7000#16, 0xF000#16⟩, by decide, rfl, by simp only [OpcodeRow.selects, encode, mask_xk]; decide⟩

theorem ldReg (x : Reg) (y : Reg) : Statement (.ldReg x y) :=
  ⟨⟨"LD_reg", 0x8000#16, 0xF00F#16⟩, by decide, rfl, by simp only [OpcodeRow.selects, encode, mask_xy]; decide⟩

theorem orReg (x : Reg) (y : Reg) : Statement (.orReg x y) :=
  ⟨⟨"OR", 0x8001#16, 0xF00F#16⟩, by decide, rfl, by simp only [OpcodeRow.selects, encode, mask_xy]; decide⟩

theorem andReg (x : Reg) (y : Reg) : Statement (.andReg x y) :=
  ⟨⟨"AND", 0x8002#16, 0xF00F#16⟩, by decide, rfl, by simp only [OpcodeRow.selects, encode, mask_xy]; decide⟩

theorem xorReg (x : Reg) (y : Reg) : Statement (.xorReg x y) :=
  ⟨⟨"XOR", 0x8003#16, 0xF00F#16⟩, by decide, rfl, by simp only [OpcodeRow.selects, encode, mask_xy]; decide⟩

theorem addReg (x : Reg) (y : Reg) : Statement (.addReg x y) :=
  ⟨⟨"ADD_reg", 0x8004#16, 0xF00F#16⟩, by decide, rfl, by simp only [OpcodeRow.selects, encode, mask_xy]; decide⟩

theorem subReg (x : Reg) (y : Reg) : Statement (.subReg x y) :=
  ⟨⟨"SUB", 0x8005#16, 0xF00F#16⟩, by decide, rfl, by simp only [OpcodeRow.selects, encode, mask_xy]; decide⟩

theorem shr (x : Reg) (ign : Nibble) : Statement (.shr x ign) :=
  ⟨⟨"SHR", 0x8006#16, 0xF00F#16⟩, by decide, rfl, by simp only [OpcodeRow.selects, encode, mask_xy]; decide⟩

theorem subnReg (x : Reg) (y : Reg) : Statement (.subnReg x y) :=
  ⟨⟨"SUBN", 0x8007#16, 0xF00F#16⟩, by decide, rfl, by simp only [OpcodeRow.selects, encode, mask_xy]; decide⟩

theorem shl (x : Reg) (ign : Nibble) : Statement (.shl x ign) :=
  ⟨⟨"SHL", 0x800E#16, 0xF00F#16⟩, by decide, rfl, by simp only [OpcodeRow.selects, encode, mask_xy]; decide⟩

theorem sneReg (x : Reg) (y : Reg) (ign : Nibble) : Statement (.sneReg x y ign) :=
  ⟨⟨"SNE_reg", 0x9000#16, 0xF000#16⟩, by decide, rfl, by simp only [OpcodeRow.selects, encode, mask_xyn]; decide⟩

theorem ldI (nnn : Address) : Statement (.ldI nnn) :=
  ⟨⟨"LD_I", 0xA000#16, 0xF000#16⟩, by decide, rfl, by simp only [OpcodeRow.selects, encode, mask_address]; decide⟩

theorem jpV0 (nnn : Address) : Statement (.jpV0 nnn) :=
  ⟨⟨"JP_V0", 0xB000#16, 0xF000#16⟩, by decide, rfl, by simp only [OpcodeRow.selects, encode, mask_address]; decide⟩

theorem rnd (x : Reg) (kk : Byte) : Statement (.rnd x kk) :=
  ⟨⟨"RND", 0xC000#16, 0xF000#16⟩, by decide, rfl, by simp only [OpcodeRow.selects, encode, mask_xk]; decide⟩

theorem drw (x : Reg) (y : Reg) (n : Nat) : Statement (.drw x y n) :=
  ⟨⟨"DRW", 0xD000#16, 0xF000#16⟩, by decide, rfl, by simp only [OpcodeRow.selects, encode, mask_xyn]; decide⟩

theorem skp (x : Reg) (ign : Nibble) : Statement (.skp x ign) :=
  ⟨⟨"SKP", 0xE00E#16, 0xF00F#16⟩, by decide, rfl, by simp only [OpcodeRow.selects, encode, mask_xy]; decide⟩

theorem sknp (x : Reg) (ign : Nibble) : Statement (.sknp x ign) :=
  ⟨⟨"SKNP", 0xE001#16, 0xF00F#16⟩, by decide, rfl, by simp only [OpcodeRow.selects, encode, mask_xy]; decide⟩

theorem ldVxDt (x : Reg) : Statement (.ldVxDt x) :=
  ⟨⟨"LD_Vx_DT", 0xF007#16, 0xF0FF#16⟩, by decide, rfl, by simp only [OpcodeRow.selects, encode, mask_xs]; decide⟩

theorem ldVxK (x : Reg) : Statement (.ldVxK x) :=
  ⟨⟨"LD_Vx_K", 0xF00A#16, 0xF0FF#16⟩, by decide, rfl, by simp only [OpcodeRow.selects, encode, mask_xs]; decide⟩

theorem ldDtVx (x : Reg) : Statement (.ldDtVx x) :=
  ⟨⟨"LD_DT_Vx", 0xF015#16, 0xF0FF#16⟩, by decide, rfl, by simp only [OpcodeRow.selects, encode, mask_xs]; decide⟩

theorem ldStVx (x : Reg) : Statement (.ldStVx x) :=
  ⟨⟨"LD_ST_Vx", 0xF018#16, 0xF0FF#16⟩, by decide, rfl, by simp only [OpcodeRow.selects, encode, mask_xs]; decide⟩

theorem addI (x : Reg) : Statement (.addI x) :=
  ⟨⟨"ADD_I", 0xF01E#16, 0xF0FF#16⟩, by decide, rfl, by simp only [OpcodeRow.selects, encode, mask_xs]; decide⟩

theorem ldF (x : Reg) : Statement (.ldF x) :=
  ⟨⟨"LD_F", 0xF029#16, 0xF0FF#16⟩, by decide, rfl, by simp only [OpcodeRow.selects, encode, mask_xs]; decide⟩

theorem ldB (x : Reg) : Statement (.ldB x) :=
  ⟨⟨"LD_B", 0xF033#16, 0xF0FF#16⟩, by decide, rfl, by simp only [OpcodeRow.selects, encode, mask_xs]; decide⟩

theorem ldMemVx (x : Reg) : Statement (.ldMemVx x) :=
  ⟨⟨"LD_mem_Vx", 0xF055#16, 0xF0FF#16⟩, by decide, rfl, by simp only [OpcodeRow.selects, encode, mask_xs]; decide⟩

theorem ldVxMem (x : Reg) : Statement (.ldVxMem x) :=
  ⟨⟨"LD_Vx_mem", 0xF065#16, 0xF0FF#16⟩, by decide, rfl, by simp only [OpcodeRow.selects, encode, mask_xs]; decide⟩

end Sys2Proof.Laws.TableRow
end

