-- ==== Sys2Proof/Tests/Slice0.lean ====
section
/-! SUPPORT. Tests: ill-formed terms refused, words written out from the spec decoded, single cycles against the vectors
T1 to T225 of 95_test_vectors.md, and for every statement with hypotheses a state and operands that meet them. -/

namespace Sys2Proof.Tests

open Sys2Proof.Machine

/-! ### Well-formedness and decoding -/

theorem test_wellFormed_refuses_sixteen_rows : (Instr.drw 0 0 16).wellFormed = false := by decide
theorem test_wellFormed_admits_fifteen_rows : (Instr.drw 15 15 15).wellFormed = true := by decide

/-- Family 0, and the words of format A. -/
theorem test_decode_literals_and_addresses :
    decodeWord 0b0000_0000_1110_0000#16 = .ok .cls ∧ decodeWord 0b0000_0000_1110_1110#16 = .ok .ret ∧
    decodeWord 0b0001_0010_0011_0100#16 = .ok (.jp 0x234#12) ∧ decodeWord 0b0010_1010_1011_1100#16 = .ok (.call 0xABC#12) ∧
    decodeWord 0b1010_0101_0101_0011#16 = .ok (.ldI 0x553#12) ∧
    decodeWord 0b1011_0011_0000_0000#16 = .ok (.jpV0 0x300#12) := by decide

/-- Format XK. -/
theorem test_decode_register_and_byte :
    decodeWord 0b0011_0011_0000_1011#16 = .ok (.seImm 3 0x0B#8) ∧
    decodeWord 0b0100_0000_0000_0001#16 = .ok (.sneImm 0 0x01#8) ∧
    decodeWord 0b0110_1010_0000_1100#16 = .ok (.ldImm 10 0x0C#8) ∧
    decodeWord 0b0111_0001_0000_0101#16 = .ok (.addImm 1 0x05#8) ∧
    decodeWord 0b1100_0011_0000_1111#16 = .ok (.rnd 3 0x0F#8) := by decide

/-- Format XY of family 8. -/
theorem test_decode_group_eight :
    decodeWord 0b1000_0001_0010_0000#16 = .ok (.ldReg 1 2) ∧ decodeWord 0b1000_0001_0010_0001#16 = .ok (.orReg 1 2) ∧
    decodeWord 0b1000_0001_0010_0010#16 = .ok (.andReg 1 2) ∧ decodeWord 0b1000_0001_0010_0011#16 = .ok (.xorReg 1 2) ∧
    decodeWord 0b1000_0001_0010_0100#16 = .ok (.addReg 1 2) ∧ decodeWord 0b1000_0001_0010_0101#16 = .ok (.subReg 1 2) ∧
    decodeWord 0b1000_0001_0010_0110#16 = .ok (.shr 1 2#4) ∧ decodeWord 0b1000_0001_0010_0111#16 = .ok (.subnReg 1 2) ∧
    decodeWord 0b1000_0001_0010_1110#16 = .ok (.shl 1 2#4) := by decide

/-- Families 5, 9, D, E, ignored nibbles kept. -/
theorem test_decode_register_pairs_and_keys :
    decodeWord 0b0101_0011_0011_0111#16 = .ok (.seReg 3 3 7#4) ∧
    decodeWord 0b1001_0001_0010_0000#16 = .ok (.sneReg 1 2 0#4) ∧
    decodeWord 0b1101_0001_0010_0101#16 = .ok (.drw 1 2 5) ∧
    decodeWord 0b1110_0010_1001_1110#16 = .ok (.skp 2 9#4) ∧
    decodeWord 0b1110_0010_1010_0001#16 = .ok (.sknp 2 10#4) := by decide

/-- Family F. -/
theorem test_decode_family_F :
    decodeWord 0b1111_0011_0000_0111#16 = .ok (.ldVxDt 3) ∧ decodeWord 0b1111_0011_0000_1010#16 = .ok (.ldVxK 3) ∧
    decodeWord 0b1111_0000_0001_0101#16 = .ok (.ldDtVx 0) ∧ decodeWord 0b1111_0001_0001_1000#16 = .ok (.ldStVx 1) ∧
    decodeWord 0b1111_0010_0001_1110#16 = .ok (.addI 2) ∧ decodeWord 0b1111_0100_0010_1001#16 = .ok (.ldF 4) ∧
    decodeWord 0b1111_0101_0011_0011#16 = .ok (.ldB 5) ∧ decodeWord 0b1111_0010_0101_0101#16 = .ok (.ldMemVx 2) ∧
    decodeWord 0b1111_0010_0110_0101#16 = .ok (.ldVxMem 2) := by decide

/-- Words of the table of R80 and their neighbours (T180 to T194). -/
theorem test_decode_refuses_reserved_words :
    [0x0000#16, 0x00E1#16, 0x00EF#16, 0x0FFF#16, 0x8128#16, 0x812D#16, 0x812F#16, 0xE290#16, 0xE29F#16, 0xF200#16,
      0xF20B#16, 0xF01F#16, 0xF175#16, 0xFFFF#16].all (fun op => decodeWord op == .error (.invalidOpcode op)) = true := by
  decide

theorem test_decode_refuses_one_byte : decodeBytes [0x00#8] = .error .truncated := by decide

/-- The host's numbering: bit 0 is the least significant bit of the word. -/
theorem test_decodeTableWord : decodeTableWord 16 0xD125 = some (.drw 1 2 5) ∧ decodeTableWord 16 0x0000 = none := by
  decide

/-- The canonical words of R85. -/
theorem test_canonical :
    (Instr.skp 2 9#4).canonical = true ∧ (Instr.skp 2 0#4).canonical = false ∧ (Instr.sknp 2 10#4).canonical = true ∧
    (Instr.seReg 1 2 0#4).canonical = true ∧ (Instr.sneReg 1 2 7#4).canonical = false := by decide

/-- The codes of R250. -/
theorem test_codes :
    Cause.stackOverflow.code = some 2 ∧ Cause.stackUnderflow.code = some 3 ∧ Cause.outOfRange.code = some 4 ∧
    Cause.none.code = none ∧ Report.code { op := 0, pc := 0x200 } = 1 := by decide

/-! ### One cycle -/

/-- The state a cycle leaves; the state itself where the cycle does not answer a next one. -/
def after (s : State) : State :=
  match step s with
  | .next t => t
  | .fault _ => s
  | .refused _ => s

/-- `s` with one instruction word at PC. -/
def running (w : Nat) (s : State) : State := s.withFetchWord 16 w

/-- The reset state with PC = w. -/
def atPc (w : Word) : State := State.reset.setPc w

/-- Put a byte into memory. -/
def poke (s : State) (a : Nat) (b : Byte) : State := s.setMem (s.mem.put s.font a b)

/-- T1, T23 -/
theorem test_jp : (after (running 0x1234 State.reset)).pc = 0x234 ∧ (after (running 0x1201 State.reset)).pc = 0x201 := by decide

/-- T4, T25 -/
theorem test_call :
    (let t := after (running 0x2ABC (atPc 0x204)); t.pc = 0xABC ∧ t.sp = 1 ∧ t.slot 0 = 0x206) ∧
    (after (running 0x2300 (atPc 0xFFE))).slot 0 = 0x1000 := by decide

/-- T6 -/
theorem test_call_overflow :
    (let t := after (running 0x2300 (State.reset.setSp 16))
     t.pc = 0x200 ∧ t.slot 15 = 0 ∧ t.status = haltedWith .stackOverflow 0x200#16 (some 0x2300#16) none) := by decide

/-- T7, T9 -/
theorem test_ret :
    (let t := after (running 0x00EE (((atPc 0x21A).setSp 1).setSlot 0 0x206)); t.pc = 0x206 ∧ t.sp = 0 ∧ t.slot 0 = 0x206) ∧
    (after (running 0x00EE ((State.reset.setSp 16).setSlot 15 0xFFF))).pc = 0xFFF := by decide

/-- T8 -/
theorem test_ret_underflow :
    (let t := after (running 0x00EE (State.reset.setSlot 0 0x206))
     t.pc = 0x200 ∧ t.status = haltedWith .stackUnderflow 0x200#16 (some 0x00EE#16) none) := by decide

/-- T10 to T13 -/
theorem test_skip_immediate :
    (after (running 0x330B ((atPc 0x208).setReg 3 0x0B))).pc = 0x20C ∧
    (after (running 0x330B ((atPc 0x208).setReg 3 0x0A))).pc = 0x20A ∧
    (after (running 0x4001 (atPc 0x300))).pc = 0x304 ∧ (after (running 0x4000 (atPc 0x300))).pc = 0x302 := by decide

/-- T14 to T19 -/
theorem test_skip_register :
    (after (running 0x5120 ((State.reset.setReg 1 7).setReg 2 7))).pc = 0x204 ∧
    (after (running 0x5120 ((State.reset.setReg 1 7).setReg 2 8))).pc = 0x202 ∧
    (after (running 0x9120 ((State.reset.setReg 1 7).setReg 2 8))).pc = 0x204 ∧
    (after (running 0x9440 (State.reset.setReg 4 1))).pc = 0x202 := by decide

/-- T20; T21's jump -/
theorem test_jpV0 :
    (after (running 0xB300 (State.reset.setReg 0 4))).pc = 0x304 ∧
    (after (running 0xBFFF (State.reset.setReg 0 0xFF))).pc = 0x10FE := by decide

/-- T30, T31 -/
theorem test_ldReg :
    (after (running 0x8120 (State.reset.setReg 2 0x5A))).reg 1 = 0x5A ∧
    (after (running 0x8F20 (State.reset.setReg 2 0x5A))).reg 15 = 0x5A := by decide

/-- T32 to T34: the flag is kept -/
theorem test_logic :
    (let s := ((State.reset.setReg 1 0xF0).setReg 2 0x3C).setReg 15 1
     (after (running 0x8121 s)).reg 1 = 0xFC ∧ (after (running 0x8121 s)).reg 15 = 1 ∧
     (after (running 0x8122 s)).reg 1 = 0x30 ∧ (after (running 0x8122 s)).reg 15 = 1 ∧
     (after (running 0x8123 s)).reg 1 = 0xCC ∧ (after (running 0x8123 s)).reg 15 = 1) := by decide

/-- T36, T37 -/
theorem test_addReg :
    (let t := after (running 0x8124 ((State.reset.setReg 1 0xC8).setReg 2 0x64)); t.reg 1 = 0x2C ∧ t.reg 15 = 1) ∧
    (let t := after (running 0x8124 ((State.reset.setReg 1 0xFF).setReg 15 1)); t.reg 1 = 0xFF ∧ t.reg 15 = 0) := by decide

/-- T41, T43: x = 15, y = 15 -/
theorem test_addReg_flag_register :
    (after (running 0x8F14 ((State.reset.setReg 15 0xF0).setReg 1 0x20))).reg 15 = 1 ∧
    (after (running 0x81F4 ((State.reset.setReg 15 1).setReg 1 5))).reg 1 = 6 := by decide

/-- T46, T47 -/
theorem test_sub :
    (let t := after (running 0x8125 ((State.reset.setReg 1 2).setReg 2 5)); t.reg 1 = 0xFD ∧ t.reg 15 = 0) ∧
    (let t := after (running 0x8125 ((State.reset.setReg 1 5).setReg 2 5)); t.reg 1 = 0 ∧ t.reg 15 = 1) := by decide

/-- T52, T53: Vy is ignored -/
theorem test_shr :
    (let t := after (running 0x8106 (State.reset.setReg 1 0xFD)); t.reg 1 = 0x7E ∧ t.reg 15 = 1) ∧
    (let t := after (running 0x8126 ((State.reset.setReg 1 4).setReg 2 0xFF)); t.reg 1 = 2 ∧ t.reg 2 = 0xFF) := by decide

/-- T58, T59 -/
theorem test_subn :
    (let t := after (running 0x8127 ((State.reset.setReg 1 5).setReg 2 0x0C)); t.reg 1 = 7 ∧ t.reg 15 = 1) ∧
    (let t := after (running 0x8127 ((State.reset.setReg 1 0x0C).setReg 2 5)); t.reg 1 = 0xF9 ∧ t.reg 2 = 5) := by decide

/-- T63, T66 -/
theorem test_shl :
    (let t := after (running 0x810E (State.reset.setReg 1 0x81)); t.reg 1 = 2 ∧ t.reg 15 = 1) ∧
    (after (running 0x8F0E (State.reset.setReg 15 0x41))).reg 15 = 0 := by decide

/-- T67, T69, T70 -/
theorem test_immediate :
    (after (running 0x6A0C State.reset)).reg 10 = 0x0C ∧ (after (running 0x7105 (State.reset.setReg 1 5))).reg 1 = 10 ∧
    (let t := after (running 0x7102 (State.reset.setReg 1 0xFF)); t.reg 1 = 1 ∧ t.reg 15 = 0) := by decide

/-- T74: with kk = 0 the result is 0 whatever the draw, and one draw is consumed. -/
theorem test_rnd_zero_mask :
    (let t := after (running 0xC300 (State.reset.setReg 3 0x55)); t.reg 3 = 0 ∧ t.drawCount = 1 ∧ t.pc = 0x202) := by
  refine ⟨?_, rfl, rfl⟩
  exact BitVec.and_zero

/-- T80, T81 -/
theorem test_ldI :
    (let t := after (running 0xA553 State.reset); t.index = 0x553 ∧ t.pc = 0x202) ∧
    (after (running 0xA000 (State.reset.setIndex 0xFFFF))).index = 0 := by decide

/-- T83, T85 -/
theorem test_addI :
    (let t := after (running 0xF21E ((State.reset.setIndex 0xFFF).setReg 2 1)); t.index = 0x1000 ∧ t.reg 15 = 0) ∧
    (after (running 0xF21E ((State.reset.setIndex 0xFF01).setReg 2 0xFF))).index = 0 := by decide

/-- T87, T91 -/
theorem test_ldF :
    (after (running 0xF429 (State.reset.setReg 4 0x0A))).index = 0x032 ∧
    (after (running 0xF429 (State.reset.setReg 4 0xFF))).index = 0x4FB := by decide

/-- T92 -/
theorem test_ldB :
    (let t := after (running 0xF533 ((State.reset.setReg 5 0xEA).setIndex 0x300))
     t.byteAt 0x300 = 2 ∧ t.byteAt 0x301 = 3 ∧ t.byteAt 0x302 = 4 ∧ t.index = 0x300) := by decide

/-- T97, T99 -/
theorem test_ldB_out_of_range :
    (let t := after (running 0xF533 ((State.reset.setReg 5 0x7B).setIndex 0xFFE))
     t.byteAt 0xFFE = 0 ∧ t.status = haltedWith .outOfRange 0x200#16 (some 0xF533#16) (some 0x1000)) ∧
    (after (running 0xF533 (State.reset.setIndex 0x2345))).status.errAddr = some 0x2345 := by decide

/-- T100 -/
theorem test_ldMemVx :
    (let t := after (running 0xF255 ((((State.reset.setReg 0 1).setReg 1 2).setReg 2 3).setReg 3 4 |>.setIndex 0x400))
     t.byteAt 0x400 = 1 ∧ t.byteAt 0x402 = 3 ∧ t.byteAt 0x403 = 0 ∧ t.index = 0x400) := by decide

/-- T103 -/
theorem test_ldMemVx_out_of_range :
    (let t := after (running 0xFF55 ((State.reset.setReg 0 0x10).setIndex 0xFF1))
     t.byteAt 0xFF1 = 0 ∧ t.status = haltedWith .outOfRange 0x200#16 (some 0xFF55#16) (some 0x1000)) := by decide

/-- T105, T107 -/
theorem test_ldVxMem :
    (let t := after (running 0xF265 (poke (poke ((State.reset.setIndex 0x300).setReg 3 0x99) 0x301 5) 0x303 7))
     t.reg 1 = 5 ∧ t.reg 2 = 0 ∧ t.reg 3 = 0x99) ∧
    (after (running 0xFF65 State.reset)).reg 13 = 0x80 := by decide

/-- T108 -/
theorem test_ldVxMem_out_of_range :
    (let t := after (running 0xF165 (((State.reset.setIndex 0xFFF).setReg 0 0x11).setReg 1 0x22))
     t.reg 0 = 0x11 ∧ t.status = haltedWith .outOfRange 0x200#16 (some 0xF165#16) (some 0x1000)) := by decide

/-- T129's last cycle -/
theorem test_cls :
    (let t := after (running 0x00E0 (State.reset.setDisplay (Display.blank.toggle 3 4)))
     t.display.pixel 3 4 = false ∧ t.pc = 0x202) := by decide

/-- T123: a sprite across the right edge of the last row -/
theorem test_drw_wraps :
    (let t := after (running 0xD011 (poke (((State.reset.setIndex 0x210).setReg 0 62).setReg 1 31) 0x210 0xFF))
     t.display.pixel 62 31 = true ∧ t.display.pixel 5 31 = true ∧ t.display.pixel 6 31 = false ∧
     t.display.pixel 0 0 = false ∧ t.reg 15 = 0) := by decide +kernel

/-- T122's second draw, T135: VF as a coordinate -/
theorem test_drw_collides :
    (let s := poke (State.reset.setIndex 0x300) 0x300 0xFF
     let t := after (running 0xD011 (after (running 0xD011 s))); t.display = Display.blank ∧ t.reg 15 = 1) ∧
    (let t := after (running 0xDF01 (poke ((State.reset.setIndex 0x210).setReg 15 5) 0x210 0x80))
     t.display.pixel 5 0 = true ∧ t.reg 15 = 0) := by decide +kernel

/-- T140, T144, T145 -/
theorem test_key_skips :
    (let s := State.reset.setKey 5 true
     (after (running 0xE29E (s.setReg 2 5))).pc = 0x204 ∧ (after (running 0xE29E (s.setReg 2 0x15))).pc = 0x204 ∧
     (after (running 0xE2A1 (s.setReg 2 5))).pc = 0x202 ∧ (after (running 0xE2A1 (s.setReg 2 0xF0))).pc = 0x204) := by decide

/-- T150, T152 -/
theorem test_ldVxK :
    (let s := running 0xF30A ((atPc 0x20A).setReg 3 0x77); after s = s) ∧
    (let t := after (running 0xF20A (((atPc 0x20A).setKey 7 true).setKey 9 true)); t.reg 2 = 7 ∧ t.pc = 0x20C) := by decide +kernel

/-- T160, T162, T164 -/
theorem test_timer_instructions :
    (after (running 0xF307 (State.reset.setDt 42))).reg 3 = 0x2A ∧
    (after (running 0xF015 (State.reset.setReg 0 3))).dt = 3 ∧
    (after (running 0xF118 (State.reset.setReg 1 0x10))).st = 16 := by decide

/-- T166, T168, T169: under `perCycle` the cycle ends with a tick -/
theorem test_perCycle_ticks :
    (let s : State := { State.reset with coupling := .perCycle }
     (after (running 0xF015 (s.setReg 0 3))).dt = 2 ∧ (after (running 0xF30A (s.setDt 2))).dt = 1 ∧
     (after (running 0x0000 (s.setDt 2))).dt = 1) := by decide

/-- R108, R214: a failing cycle under `perCycle` also ends with a tick, a halted one does not. -/
theorem test_perCycle_ticks_when_it_fails :
    (let s : State := { State.reset with coupling := .perCycle, dt := 2 }
     let t := after (running 0x00EE s); t.status.halted = true ∧ t.dt = 1 ∧ (after t).dt = 1) ∧
    (let s : State := { State.reset with coupling := .perCycle, dt := 2, pc := 0xFFF }
     (after s).status.halted = true ∧ (after s).dt = 1) := by decide

/-- R6, R29: a machine with a font of its own reads it from 0x000, keeps it over Reset, and may store over its copy. -/
theorem test_font_is_a_parameter :
    (let s := State.resetWith (Vector.replicate 80 0x5A) .external
     s.byteAt 0 = 0x5A ∧ s.byteAt 79 = 0x5A ∧ s.byteAt 80 = 0 ∧ (after (running 0xF065 s)).reg 0 = 0x5A ∧
     (poke s 0 0x5A).mem = [] ∧ (poke s 0 0xF0).byteAt 0 = 0xF0 ∧ (poke s 0 0xF0).resetMachine.byteAt 0 = 0x5A) := by decide

/-- T172, T173 -/
theorem test_tick :
    (let t := ((State.reset.setDt 1).setSt 255).tick; t.dt = 0 ∧ t.st = 254) ∧ (State.reset.tick).dt = 0 := by decide

/-- T180 -/
theorem test_invalid_opcode :
    (let t := after State.reset
     t.pc = 0x202 ∧ t.reports = [{ op := 0x0000, pc := 0x200 }] ∧ t.status = Status.clear) := by decide

/-- T200, T202, T204 -/
theorem test_fetch_edge :
    (after (running 0x6A01 (atPc 0xFFE))).pc = 0x1000 ∧
    (after (atPc 0xFFF)).status = haltedWith .outOfRange 0xFFF#16 none (some 0x1000) ∧
    (after (atPc 0xFFFF)).status = haltedWith .outOfRange 0xFFFF#16 none (some 0xFFFF) := by decide

/-- A halted state, or one whose PC cannot be fetched, is made ready to run the placed word. -/
theorem test_withFetchWord :
    (after ((after (atPc 0xFFF)).withFetchWord 16 0x6A0C)).reg 10 = 0x0C := by decide

/-! ### The host's operations -/

/-- What an operation leaves and answers. -/
def hostAfter (o : Operation) (s : State) : State × Reply :=
  match perform o s with
  | .next r => r
  | .fault _ => (s, .refused)
  | .refused _ => (s, .refused)

/-- T211, T214 -/
theorem test_loadImage :
    (let r := hostAfter (.loadImage [0x71, 0x05]) State.reset
     r.1.byteAt 0x200 = 0x71 ∧ r.1.byteAt 0x201 = 0x05 ∧ r.1.pc = 0x200 ∧ r.2 = .done) ∧
    (hostAfter (.loadImage [0x12]) State.reset).1.fetch = .ok 0x1200 := by decide

/-- T215 to T218 -/
theorem test_host_memory :
    (hostAfter (.setMem 0x000 0xFF) State.reset).1.byteAt 0 = 0xFF ∧
    (hostAfter (.getMem 0xFFF) State.reset) = (State.reset, .number 0) ∧
    (let s := (hostAfter (.getMem 0x1000) State.reset).1
     s.status = haltedWith .outOfRange 0x200#16 none (some 0x1000) ∧ (hostAfter (.setMem 0x1234 1) s).1 = s) := by decide +kernel

/-- T219, T221, T223 -/
theorem test_host_registers :
    (hostAfter (.setKey 5 1) State.reset).1.key 5 = true ∧ hostAfter (.setSP 17) State.reset = (State.reset, .refused) ∧
    (hostAfter (.getPixel 0 0) (State.reset.setDisplay (Display.blank.toggle 0 0))).2 = .flag true := by decide +kernel

/-- T210, T225 -/
theorem test_reset_and_halted_host :
    (let s := after (atPc 0xFFF)
     (hostAfter .reset s).1 = State.reset ∧ (hostAfter .runCycle s).1 = s ∧
     (hostAfter .timerTick (s.setDt 7)).1.dt = 6 ∧ (hostAfter (.setKey 5 1) s).1.key 5 = true) := by decide +kernel

/-- The reads of R232. -/
theorem test_status_and_report_reads :
    (hostAfter .getStatus State.reset).2 = .status Status.clear ∧
    (hostAfter .getReports (after State.reset)).2 = .reports [{ op := 0, pc := 0x200 }] := by decide

/-- The state an instruction leaves; the state itself where it does not answer a next one. -/
def left (i : Instr) (s : State) : State :=
  match exec i s with
  | .next t => t
  | .fault _ => s
  | .refused _ => s

/-! ### Witnesses: for each statement with hypotheses, a state and operands that meet them -/

theorem witness_DecodingAnEncodedInstructionGivesItBack : (Instr.drw 15 0 15).wellFormed = true := by decide

theorem witness_EncodingADecodedWordGivesItBack : decodeWord 0xE20E#16 = .ok (.skp 2 0#4) := by decide

theorem witness_DecoderFollowsTheOpcodeTable :
    decodeWord 0x812E#16 = .ok (.shl 1 2#4) ∧ (⟨"SHL", 0x800E#16, 0xF00F#16⟩ : OpcodeRow) ∈ opcodeTable ∧
    0x812E#16 &&& 0xF00F#16 = 0x800E#16 := by decide

theorem witness_InvalidWordsAreThoseTheSpecLists :
    [0x0FFF#16, 0x8128#16, 0xE002#16, 0xFF66#16].map familyField = [0x0#4, 0x8#4, 0xE#4, 0xF#4] ∧
    decodeWord 0xE002#16 = .error (.invalidOpcode 0xE002#16) ∧
    decodeWord 0xFF66#16 = .error (.invalidOpcode 0xFF66#16) := by decide

/-- The two ranges of addresses meet at 80 = 0x50: the default font. -/
theorem witness_ResetLeavesTheTableOfValues :
    fontTable.length = 80 ∧ State.reset.byteAt 0x4F = 0x80 ∧ State.reset.byteAt 0x50 = 0 ∧
    State.reset.byteAt 0 = 0xF0 := by decide

theorem reset_inv : State.reset.Inv := ⟨Memory.wf_nil, by decide, by simp [State.reset, State.resetWith]⟩

theorem witness_EveryCycleKeepsTheInvariant : State.reset.Inv ∧ step State.reset = .next (after State.reset) :=
  ⟨reset_inv, rfl⟩

theorem witness_EveryOperationKeepsTheInvariant :
    State.reset.Inv ∧ perform (.setMem 0xFFF 1) State.reset = .next (poke State.reset 0xFFF 1, .done) :=
  ⟨reset_inv, rfl⟩

theorem witness_MemoriesThatReadAlikeAreEqual :
    Memory.wf defaultFont [(0x200, 0x12), (0xFFF, 0x34)] ∧
    Memory.put defaultFont (Memory.put defaultFont [] 0xFFF 0x34) 0x200 0x12 = [(0x200, 0x12), (0xFFF, 0x34)] := by decide

theorem witness_StepRunsTheDecodedInstruction :
    (let s := running 0x6A0C State.reset
     s.safe ∧ s.mem.read s.font s.pc.toNat = some 0x6A ∧ s.mem.read s.font (s.pc.toNat + 1) = some 0x0C) ∧
    decodeBytes [0x6A, 0x0C, 0x00] = .ok (.ldImm 10 0x0C#8, [0x00]) := by decide

theorem witness_HaltedEngineChangesNothing : (after (atPc 0xFFF)).status.halted = true := by decide

/-- The three places where PC's ranges meet. -/
theorem witness_FetchReadsTwoBytesHighByteFirst :
    (atPc 0xFFE).pc.toNat = 4094 ∧
    (atPc 0xFFF).safe ∧ (atPc 0xFFF).coupling = .external ∧ (atPc 0xFFF).pc.toNat = 4095 ∧
    (atPc 0x1000).safe ∧ (atPc 0x1000).coupling = .external ∧ (atPc 0x1000).pc.toNat = 4096 := by decide

/-- An instruction that goes on, one that fails, an invalid word, a failed fetch. -/
theorem witness_PcAdvancesByTheClassOfTheInstruction :
    (State.reset.safe ∧ exec (.ldImm 1 2#8) State.reset = .next (State.reset.writeNoFlag 1 2) ∧
      (State.reset.writeNoFlag 1 2).safe) ∧
    (exec .ret State.reset = .next (State.reset.raiseStackUnderflow .ret) ∧
      (State.reset.raiseStackUnderflow .ret).status.halted = true) ∧
    (State.reset.fetch = .ok 0x0000#16 ∧ decodeWord 0x0000#16 = .error (.invalidOpcode 0x0000#16)) ∧
    (atPc 0xFFF).fetch = .error 4096 :=
  ⟨⟨rfl, rfl, rfl⟩, ⟨rfl, rfl⟩, by decide, by decide⟩

theorem witness_InvalidOpcodeIsReportedAndSkipped :
    State.reset.safe ∧ State.reset.coupling = .external ∧ State.reset.fetch = .ok 0x0000#16 ∧
    decodeWord 0x0000#16 = .error (.invalidOpcode 0x0000#16) := by decide

/-- A failed fetch records no word; a failing instruction records its own. -/
theorem witness_FatalConditionsChangeOnlyTheStatus :
    ((atPc 0xFFF).safe ∧ (after (atPc 0xFFF)).status.halted = true ∧ (after (atPc 0xFFF)).status.errOp = none) ∧
    (let s := running 0x00EE State.reset
     s.safe ∧ (after s).status.halted = true ∧ (after s).status.errOp = some 0x00EE#16) := by decide

theorem witness_OnlyTheListedInstructionsRaise :
    State.reset.safe ∧ exec .ret State.reset = .next (State.reset.raiseStackUnderflow .ret) ∧
    exec .cls State.reset = .next (State.reset.setDisplay Display.blank).advance ∧
    (State.reset.raiseStackUnderflow .ret).status.halted = true := ⟨rfl, rfl, rfl, rfl⟩

theorem witness_PerCycleIsExternalThenOneTick : State.reset.coupling = .external := by decide

theorem witness_FinishedGuestStaysFinished : (running 0x1200 State.reset).finished :=
  ⟨by decide, 0x200#12, by decide, by decide⟩

theorem witness_JumpSetsPcToItsAddress : State.reset.safe ∧ State.reset.coupling = .external := by decide

/-- The first and the last slot. -/
theorem witness_CallPushesTheAddressAfterIt :
    State.reset.sp.val = (0 : Fin 16).val ∧ (State.reset.setSp 15).sp.val = (15 : Fin 16).val := by decide

theorem witness_ReturnPopsThePushedAddress :
    (State.reset.setSp 1).sp.val = (0 : Fin 16).val + 1 ∧ (State.reset.setSp 16).sp.val = (15 : Fin 16).val + 1 ∧
    State.reset.safe ∧ State.reset.sp.val = 0 := by decide

theorem witness_ReturnComesBackAfterTheCall :
    (State.reset.setSp 15).sp.val = (15 : Fin 16).val ∧
    exec (.call 0x300#12) (State.reset.setSp 15) = .next (left (.call 0x300#12) (State.reset.setSp 15)) := ⟨rfl, rfl⟩

theorem witness_RegisterSkipsCompareAndSkip : (3 : Reg) = 3 := rfl

theorem witness_AddAndSubtractDefineTheFlag : (14 : Reg) ≠ 15 := by decide

theorem witness_ShiftsMoveTheBitOutIntoTheFlag : (0 : Reg) ≠ 15 := by decide

theorem witness_IndexArithmeticHasNoFlag :
    (State.reset.setReg 4 15).mem = State.reset.mem ∧ ((State.reset.setReg 4 15).reg 4).toNat < 16 ∧ 4 < 5 := by decide

theorem witness_StoreBcdWritesTheThreeDigits : (State.reset.setIndex 4093).index.toNat + 2 ≤ 4095 := by decide

theorem witness_RegisterDumpStoresTheBlock :
    (State.reset.setIndex 4080).index.toNat + (15 : Reg).val ≤ 4095 ∧ (14 : Reg) ≤ 15 := by decide

theorem witness_RegisterLoadLoadsTheBlock :
    (State.reset.setIndex 4095).index.toNat + (0 : Reg).val ≤ 4095 ∧ (0 : Reg) ≤ 0 := by decide

theorem witness_StoredBytesAreFetchedNext :
    1 ≤ (1 : Reg).val ∧ (State.reset.setIndex 0x202).index.toNat + (1 : Reg).val ≤ 4095 ∧
    (State.reset.setIndex 0x202).index.toNat = (State.reset.setIndex 0x202).pc.toNat + 2 := by decide

/-- A full stack, an empty one, and ranges that leave memory by one byte. -/
theorem witness_FailingInstructionsChangeOnlyTheStatus :
    ((State.reset.setSp 16).safe ∧ (State.reset.setSp 16).sp.val = 16) ∧ (State.reset.safe ∧ State.reset.sp.val = 0) ∧
    (indexBytes (.ldB 5) = some 3 ∧ 4095 < (State.reset.setIndex 4094).index.toNat + 3 - 1) ∧
    (indexBytes (.drw 0 1 1) = some 1 ∧ 4095 < (State.reset.setIndex 4096).index.toNat + 1 - 1) := by decide

/-- No row, and the longest sprite at the end of memory; a pixel it lands on and one it does not. -/
theorem witness_DrawXorsTheSpriteWithWrapAround :
    (State.reset.setIndex 4081).index.toNat + 15 - 1 ≤ 4095 ∧ landsOn 62 31 7 14 5 13 ∧ ¬ landsOn 62 31 0 0 61 31 :=
  ⟨by decide, ⟨by decide, by decide⟩, fun h => absurd h.1 (by decide)⟩

theorem witness_DrawingTwiceRestoresTheDisplay :
    (let s := (State.reset.setIndex 0x300).setReg 0 62
     let t := left (.drw 0 1 1) s
     1 ≤ 15 ∧ s.index.toNat + 1 - 1 ≤ 4095 ∧ exec (.drw 0 1 1) s = .next t ∧ t.index = s.index ∧
     t.mem = s.mem ∧ t.reg 0 = s.reg 0 ∧ t.reg 1 = s.reg 1) := by
  refine ⟨by decide, by decide, rfl, rfl, rfl, ?_, ?_⟩ <;> decide

theorem witness_KeySkipsReadTheKeyOfTheLowNibble :
    ((State.reset.setReg 2 0xF0).reg 2).toNat % 16 = (0 : Fin 16).val ∧
    ((State.reset.setReg 2 0xFF).reg 2).toNat % 16 = (15 : Fin 16).val := by decide

/-- Keys 7 and 9 pressed; only key 15 pressed; none pressed at a fetched WAIT-FOR-KEY. -/
theorem witness_WaitForKeyTakesTheLowestKeyOrBlocks :
    (let s := (State.reset.setKey 7 true).setKey 9 true; s.key 7 = true ∧ ∀ j : Fin 16, j < 7 → s.key j = false) ∧
    (let s := State.reset.setKey 15 true; s.key 15 = true ∧ ∀ j : Fin 16, j < 15 → s.key j = false) ∧
    (let s := running 0xF30A State.reset
     (∀ k, s.key k = false) ∧ s.coupling = .external ∧ s.fetch = .ok (formatXK 0xF#4 (nibbleOf 3) 0x0A#8)) := by decide

theorem witness_RegistersChangeOnlyAsDestinationsOrFlag :
    exec (.addReg 1 2) State.reset = .next (State.reset.writeWithFlag 1 0 false) ∧ definesFlag (.addReg 1 2) ∧
    State.reset.safe ∧ (State.reset.writeWithFlag 1 0 false).safe ∧ ¬ destinations (.addReg 1 2) 2 :=
  ⟨rfl, trivial, rfl, rfl, by simp [destinations]⟩

theorem witness_OnlyCallAndReturnMoveTheStack :
    (let t := left (.call 0x300#12) State.reset
     exec (.call 0x300#12) State.reset = .next t ∧ t.sp ≠ State.reset.sp ∧ t.slot 0 ≠ State.reset.slot 0) := by
  refine ⟨rfl, ?_, ?_⟩ <;> decide

/-- The last byte of each of the two stores. -/
theorem witness_OnlyBcdAndDumpStore :
    (let s := (State.reset.setReg 5 9).setIndex 0xFFD
     exec (.ldB 5) s = .next (left (.ldB 5) s) ∧ (left (.ldB 5) s).byteAt 0xFFF ≠ s.byteAt 0xFFF) ∧
    (let s := (State.reset.setReg 1 9).setIndex 0xFFE
     exec (.ldMemVx 1) s = .next (left (.ldMemVx 1) s) ∧
     (left (.ldMemVx 1) s).byteAt 0xFFF ≠ s.byteAt 0xFFF) := by
  refine ⟨⟨rfl, ?_⟩, rfl, ?_⟩ <;> decide

theorem witness_OnlyTheNamedInstructionsWriteIndexAndTimers :
    exec (.ldDtVx 0) (State.reset.setReg 0 3) = .next (left (.ldDtVx 0) (State.reset.setReg 0 3)) ∧
    (left (.ldDtVx 0) (State.reset.setReg 0 3)).dt ≠ (State.reset.setReg 0 3).dt ∧
    (left (.ldI 0x300#12) State.reset).index ≠ State.reset.index ∧
    (left (.ldStVx 0) (State.reset.setReg 0 3)).st ≠ (State.reset.setReg 0 3).st := by
  refine ⟨rfl, ?_, ?_, ?_⟩ <;> decide

theorem witness_OnlyDrawClearAndResetChangeTheDisplay :
    (let s := running 0x00E0 (State.reset.setDisplay (Display.blank.toggle 63 31))
     perform .runCycle s = .next (after s, .done) ∧ (after s).display ≠ s.display) := by
  refine ⟨rfl, ?_⟩
  decide +kernel

theorem witness_OnlyTheHostWritesTheKeys :
    perform (.setKey 15 1) State.reset = .next (State.reset.setKey 15 true, .done) ∧
    (State.reset.setKey 15 true).keys ≠ State.reset.keys := ⟨rfl, by decide⟩

theorem witness_OnlyResetClearsTheFailureRecord :
    (after (atPc 0xFFF)).status.halted = true ∧
    performAll [.timerTick, .runCycle] (after (atPc 0xFFF)) = .next (after (atPc 0xFFF)) ∧
    Operation.reset ∉ [Operation.timerTick, .runCycle] := ⟨by decide, rfl, by decide⟩

/-- The longest image that fits and the shortest that does not. -/
theorem witness_LoadImageWritesFrom0x200 :
    (List.replicate 3584 (0 : Byte)).length ≤ 3584 ∧ 3584 < (List.replicate 3585 (0 : Byte)).length ∧
    State.reset.safe := by
  rw [List.length_replicate, List.length_replicate]
  decide

theorem witness_HostMemoryAccessIsRangeChecked : 255 < 256 ∧ 4095 ≤ 4095 ∧ 4095 < 4096 ∧ State.reset.safe := by decide

theorem witness_AccessorsReadBackWhatMutatorsWrote : 15 < 16 ∧ 255 < 256 ∧ 65535 < 65536 ∧ 16 ≤ 16 ∧ 1 < 2 := by decide

theorem witness_OutOfRangeHostArgumentsAreRefused :
    15 < 16 ∧ 255 < 256 ∧ 65535 < 65536 ∧ 16 < 17 ∧ 1 < 2 ∧ 63 < 64 ∧ 31 < 32 := by decide

theorem witness_MutatorsRestoreAllButDisplayAndStatus :
    (let s := poke State.reset 0xFFF 1; s.mem.wf s.font ∧ State.reset.font = s.font) := by decide

end Sys2Proof.Tests
end

section
/-! The decoder against the opcode table (30_encoding.md R79): the encoder is a left inverse of it, and the row a word
decodes into depends on the bits it dispatches on alone, which every row's mask keeps. -/

namespace Sys2Proof

/-! ### The word of a decoded instruction -/

theorem formatA_of_family {op : Word} {f : Nibble} (hf : familyField op = f) : formatA f (nnnField op) = op := by
  rw [← hf, formatA_fields]

theorem formatXK_of_family {op : Word} {f : Nibble} (hf : familyField op = f) :
    formatXK f (nibbleOf (xReg op)) (kkField op) = op := by
  rw [← hf, xReg, nibbleOf_regOf, formatXK_fields]

theorem formatXYN_of_family {op : Word} {f : Nibble} (hf : familyField op = f) :
    formatXYN f (nibbleOf (xReg op)) (yField op) (nField op) = op := by
  rw [← hf, xReg, nibbleOf_regOf, formatXYN_fields]

theorem nibbleOf_yReg (op : Word) : nibbleOf (yReg op) = yField op := nibbleOf_regOf _

theorem encode_of_decodeFamily0 {op : Word} {i : Instr} (h : decodeFamily0 op = .ok i) : encode i = op := by
  unfold decodeFamily0 at h
  split at h <;> cases h <;> rfl

theorem encode_of_decodeFamily8 {op : Word} {i : Instr} (hf : familyField op = 0x8#4) (h : decodeFamily8 op = .ok i) :
    encode i = op := by
  have hop := formatXYN_of_family hf
  unfold decodeFamily8 at h
  split at h <;> cases h
  all_goals
    rename_i hn
    simpa only [encode, nibbleOf_yReg, hn] using hop

theorem encode_of_decodeFamilyE {op : Word} {i : Instr} (hf : familyField op = 0xE#4) (h : decodeFamilyE op = .ok i) :
    encode i = op := by
  have hop := formatXYN_of_family hf
  unfold decodeFamilyE at h
  split at h <;> cases h
  all_goals
    rename_i hn
    simpa only [encode, hn] using hop

theorem encode_of_decodeFamilyF {op : Word} {i : Instr} (hf : familyField op = 0xF#4) (h : decodeFamilyF op = .ok i) :
    encode i = op := by
  have hop := formatXK_of_family hf
  unfold decodeFamilyF at h
  split at h <;> cases h
  all_goals
    rename_i hk
    simpa only [encode, hk] using hop

/-- No bit of a word that decodes is lost: the encoder gives the word back. -/
theorem encode_of_decodeWord {op : Word} {i : Instr} (h : decodeWord op = .ok i) : encode i = op := by
  unfold decodeWord at h
  split at h
  case h_1 => exact encode_of_decodeFamily0 h
  case h_9 hf => exact encode_of_decodeFamily8 hf h
  case h_15 hf => exact encode_of_decodeFamilyE hf h
  case h_16 hf => exact encode_of_decodeFamilyF hf h
  all_goals cases h
  all_goals
    rename_i hf
    simp only [encode, nibbleOf_yReg, BitVec.ofNat_toNat, BitVec.setWidth_eq, formatA_of_family hf,
      formatXK_of_family hf, formatXYN_of_family hf]

/-! ### A word that decodes selects a row of its instruction -/

theorem OpcodeRow.selects_iff (r : OpcodeRow) (op : Word) : r.selects op = true ↔ op &&& r.mask = r.pattern :=
  beq_iff_eq

open Laws.TableRow in
theorem encode_selects_row : ∀ i : Instr, Statement i
  | .cls => cls
  | .ret => ret
  | .jp nnn => jp nnn
  | .call nnn => call nnn
  | .seImm x kk => seImm x kk
  | .sneImm x kk => sneImm x kk
  | .seReg x y ign => seReg x y ign
  | .ldImm x kk => ldImm x kk
  | .addImm x kk => addImm x kk
  | .ldReg x y => ldReg x y
  | .orReg x y => orReg x y
  | .andReg x y => andReg x y
  | .xorReg x y => xorReg x y
  | .addReg x y => addReg x y
  | .subReg x y => subReg x y
  | .shr x ign => shr x ign
  | .subnReg x y => subnReg x y
  | .shl x ign => shl x ign
  | .sneReg x y ign => sneReg x y ign
  | .ldI nnn => ldI nnn
  | .jpV0 nnn => jpV0 nnn
  | .rnd x kk => rnd x kk
  | .drw x y n => drw x y n
  | .skp x ign => skp x ign
  | .sknp x ign => sknp x ign
  | .ldVxDt x => ldVxDt x
  | .ldVxK x => ldVxK x
  | .ldDtVx x => ldDtVx x
  | .ldStVx x => ldStVx x
  | .addI x => addI x
  | .ldF x => ldF x
  | .ldB x => ldB x
  | .ldMemVx x => ldMemVx x
  | .ldVxMem x => ldVxMem x

theorem decoded_selects_row {op : Word} {i : Instr} (h : decodeWord op = .ok i) :
    ∃ r ∈ opcodeTable, r.mnemonic = i.mnemonic ∧ op &&& r.mask = r.pattern := by
  obtain ⟨r, hr, hm, hsel⟩ := encode_selects_row i
  rw [encode_of_decodeWord h, r.selects_iff] at hsel
  exact ⟨r, hr, hm, hsel⟩

/-! ### A word that selects a row decodes as the row's pattern does -/

/-- The mnemonic of the instruction a decoder answers, if it answers one. -/
def answeredMnemonic (d : Except Reject Instr) : Option String := d.toOption.map Instr.mnemonic

theorem answeredMnemonic_eq_some {d : Except Reject Instr} {m : String} :
    answeredMnemonic d = some m ↔ ∃ i, d = .ok i ∧ i.mnemonic = m := by
  cases d <;> simp [answeredMnemonic, Except.toOption]

theorem answeredMnemonic_family8_congr {op p : Word} (hn : nField op = nField p) :
    answeredMnemonic (decodeFamily8 op) = answeredMnemonic (decodeFamily8 p) := by
  unfold decodeFamily8
  rw [hn]
  split <;> rfl

theorem answeredMnemonic_familyE_congr {op p : Word} (hn : nField op = nField p) :
    answeredMnemonic (decodeFamilyE op) = answeredMnemonic (decodeFamilyE p) := by
  unfold decodeFamilyE
  rw [hn]
  split <;> rfl

theorem answeredMnemonic_familyF_congr {op p : Word} (hk : kkField op = kkField p) :
    answeredMnemonic (decodeFamilyF op) = answeredMnemonic (decodeFamilyF p) := by
  unfold decodeFamilyF
  rw [hk]
  split <;> rfl

/-- The bits the decoder dispatches on in a family: the whole word in family 0, the low nibble in families 8 and E, the
low byte in family F, and in every family the family itself (R74, R77 to R79, R103). -/
structure SameDispatch (op p : Word) : Prop where
  family : familyField op = familyField p
  family0 : familyField p = 0x0#4 → op = p
  family8E : familyField p = 0x8#4 ∨ familyField p = 0xE#4 → nField op = nField p
  familyF : familyField p = 0xF#4 → kkField op = kkField p

theorem answeredMnemonic_congr {op p : Word} (h : SameDispatch op p) :
    answeredMnemonic (decodeWord op) = answeredMnemonic (decodeWord p) := by
  unfold decodeWord
  rw [h.family]
  split
  case h_1 hf => rw [h.family0 hf]
  case h_9 hf => exact answeredMnemonic_family8_congr (h.family8E (.inl hf))
  case h_15 hf => exact answeredMnemonic_familyE_congr (h.family8E (.inr hf))
  case h_16 hf => exact answeredMnemonic_familyF_congr (h.familyF hf)
  all_goals rfl

/-- The mask keeps the bits that words of the row's family dispatch on. -/
def OpcodeRow.MaskKeepsDispatch (r : OpcodeRow) : Prop :=
  familyField r.mask = 0xF#4 ∧ (familyField r.pattern = 0x0#4 → r.mask = 0xFFFF#16) ∧
  (familyField r.pattern = 0x8#4 ∨ familyField r.pattern = 0xE#4 → nField r.mask = 0xF#4) ∧
  (familyField r.pattern = 0xF#4 → kkField r.mask = 0xFF#8)

theorem opcodeTable_maskKeepsDispatch : ∀ r ∈ opcodeTable, r.MaskKeepsDispatch := by
  unfold OpcodeRow.MaskKeepsDispatch
  decide

theorem opcodeTable_pattern_decodes :
    ∀ r ∈ opcodeTable, answeredMnemonic (decodeWord r.pattern) = some r.mnemonic := by decide

theorem familyField_and (a b : Word) : familyField (a &&& b) = familyField a &&& familyField b :=
  BitVec.extractLsb'_and

theorem nField_and (a b : Word) : nField (a &&& b) = nField a &&& nField b :=
  BitVec.extractLsb'_and

theorem kkField_and (a b : Word) : kkField (a &&& b) = kkField a &&& kkField b :=
  BitVec.extractLsb'_and

theorem sameDispatch_of_selects {r : OpcodeRow} {op : Word} (hr : r ∈ opcodeTable) (h : op &&& r.mask = r.pattern) :
    SameDispatch op r.pattern := by
  obtain ⟨hfam, h0, h8E, hF⟩ := opcodeTable_maskKeepsDispatch r hr
  constructor
  case family => rw [← h, familyField_and, hfam, nibble_and_ones]
  case family0 =>
    intro hf
    rw [← h, h0 hf, show 0xFFFF#16 = BitVec.allOnes 16 from rfl, BitVec.and_allOnes]
  case family8E =>
    intro hf
    rw [← h, nField_and, h8E hf, nibble_and_ones]
  case familyF =>
    intro hf
    rw [← h, kkField_and, hF hf, byte_and_ones]

theorem selected_row_decodes {r : OpcodeRow} {op : Word} (hr : r ∈ opcodeTable) (h : op &&& r.mask = r.pattern) :
    ∃ i, decodeWord op = .ok i ∧ i.mnemonic = r.mnemonic := by
  rw [← answeredMnemonic_eq_some, answeredMnemonic_congr (sameDispatch_of_selects hr h)]
  exact opcodeTable_pattern_decodes r hr

/-! ### No word selects two rows -/

theorem opcodeTable_mnemonic_nodup : (opcodeTable.map OpcodeRow.mnemonic).Nodup := by decide

/-- The decoder answers one instruction, and each mnemonic stands in one row. -/
theorem selected_rows_eq {r q : OpcodeRow} {op : Word} (hr : r ∈ opcodeTable) (hq : q ∈ opcodeTable)
    (hrop : op &&& r.mask = r.pattern) (hqop : op &&& q.mask = q.pattern) : r = q := by
  obtain ⟨i, hi, hir⟩ := selected_row_decodes hr hrop
  obtain ⟨j, hj, hjq⟩ := selected_row_decodes hq hqop
  obtain rfl : i = j := Except.ok.inj (hi.symm.trans hj)
  exact List.inj_on_of_nodup_map opcodeTable_mnemonic_nodup hr hq (hir.symm.trans hjq)

/-- Settles O4: a decoded word is the encoding of its instruction, which selects the instruction's row; a word that selects
a row agrees with the row's pattern on the bits the decoder dispatches on. -/
theorem decoderFollowsTheOpcodeTable : Obligations.DecoderFollowsTheOpcodeTable :=
  fun _ => ⟨fun _ => decoded_selects_row, fun _ => selected_row_decodes, fun _ hr _ hq => selected_rows_eq hr hq⟩

end Sys2Proof
end

section
/-! The fetch and the cycle of a failed fetch (40_fetch_dispatch.md R102, 60_exceptions.md R254). -/

namespace Sys2Proof.Machine

theorem toNat_wordOfBytes (high low : Byte) : (wordOfBytes high low).toNat = high.toNat * 256 + low.toNat := by
  rw [wordOfBytes, BitVec.toNat_append, ← Nat.shiftLeft_add_eq_or_of_lt low.isLt, Nat.shiftLeft_eq]

/-- The lower of PC and PC + 1 that is out of range, as R254 says it. -/
theorem State.fetch_of_gt (s : State) (h : 4094 < s.pc.toNat) :
    s.fetch = .error (if s.pc.toNat > 4095 then s.pc.toNat else s.pc.toNat + 1) := by
  have hbad : max s.pc.toNat Config.memSize = if s.pc.toNat > 4095 then s.pc.toNat else s.pc.toNat + 1 := by
    simp only [Config.memSize]
    split <;> omega
  rw [← hbad]
  exact s.fetch_of_ge (by simp only [Config.memSize]; omega)

@[simp] theorem State.closeCycle_status (s : State) : s.closeCycle.status = s.status := by
  rw [State.closeCycle_timers]

/-- No tick ends the cycle under external coupling (R214). -/
theorem State.closeCycle_of_external {s : State} (h : s.coupling = .external) : s.closeCycle = s := by
  simp [State.closeCycle_eq, h]

/-- The cycle of a failed fetch records the fault, and under external coupling does nothing else. -/
theorem step_records_fetch_error {s : State} {a : Nat} (hs : s.safe) (hf : s.fetch = .error a) :
    ∃ t, step s = .next t ∧ t.status = haltedWith .outOfRange s.pc none (some a) ∧
      (s.coupling = .external → t = { s with status := t.status }) := by
  refine ⟨_, step_of_fetch_error hs hf, State.closeCycle_status _, fun hc => ?_⟩
  rw [State.closeCycle_status]
  exact State.closeCycle_of_external hc

/-- Settles O14: the fetch succeeds or fails by where PC stands, and a failed fetch is the whole of its cycle. -/
theorem fetchReadsTwoBytesHighByteFirst : Obligations.FetchReadsTwoBytesHighByteFirst := by
  intro s
  refine ⟨fun h => ?_, s.fetch_of_gt, fun hs h => step_records_fetch_error hs (s.fetch_of_gt h)⟩
  exact ⟨_, s.fetch_of_lt (by simp only [Config.memSize]; omega), toNat_wordOfBytes _ _⟩

end Sys2Proof.Machine
end

section
/-! Jumps, returns and immediate skips (41_control_flow.md R120, R122 to R124): their words decode to them, and each that
completes sets PC, a return also SP, and nothing else. -/

namespace Sys2Proof

theorem decodeWord_jp (nnn : Address) : decodeWord (formatA 0x1#4 nnn) = .ok (.jp nnn) := by simp [decodeWord]

theorem decodeWord_seImm (x : Reg) (kk : Byte) :
    decodeWord (formatXK 0x3#4 (nibbleOf x) kk) = .ok (.seImm x kk) := by
  simp [decodeWord, xReg]

theorem decodeWord_sneImm (x : Reg) (kk : Byte) :
    decodeWord (formatXK 0x4#4 (nibbleOf x) kk) = .ok (.sneImm x kk) := by
  simp [decodeWord, xReg]

end Sys2Proof

namespace Sys2Proof.Machine

/-! ### Instructions that write PC, and instructions that write SP and PC -/

theorem changesOnly_setPc (s : State) (w : Word) : ChangesOnly noReg [] s (s.setPc w) := by
  constructor <;> simp

theorem changesOnly_setSp_setPc (s : State) (n : Fin 17) (w : Word) :
    ChangesOnly noReg [.stack] s ((s.setSp n).setPc w) := by
  constructor <;> simp

/-! ### JUMP -/

theorem exec_jp (nnn : Address) (s : State) : exec (.jp nnn) s = .next (s.setPc (zext16 nnn)) := rfl

/-- At 0xFFF the second byte of the word would be at 0x1000, which is no cell (R102, R120). -/
theorem State.fetch_at_0xFFF {s : State} (h : s.pc = 0xFFF#16) : s.fetch = .error 0x1000 := by
  have hpc : s.pc.toNat = 4095 := by rw [h]; rfl
  simpa [hpc] using s.fetch_of_gt (by omega)

/-- Settles O21: a jump is a write of PC; after one to 0xFFF the next cycle is that of a failed fetch. -/
theorem jumpSetsPcToItsAddress : Obligations.JumpSetsPcToItsAddress := by
  intro nnn s
  refine ⟨decodeWord_jp nnn, _, exec_jp nnn s, toNat_zext16 nnn, changesOnly_setPc s _, ?_⟩
  rintro rfl hs
  exact step_records_fetch_error hs (State.fetch_at_0xFFF rfl)

/-! ### RETURN -/

/-- With a call outstanding RET pops the slot below SP (R122). -/
theorem exec_ret_of_sp_succ {s : State} {k : Fin 16} (h : s.sp.val = k.val + 1) :
    exec .ret s = .next ((s.setSp k.castSucc).setPc (s.slot k)) := by
  have hk : s.sp.val - 1 = k.val := by omega
  have hne : s.sp.val ≠ 0 := by omega
  simp only [exec, execRet, hne, hk, dite_false]
  rfl

theorem exec_ret_of_sp_zero {s : State} (h : s.sp.val = 0) : exec .ret s = .next (s.raiseStackUnderflow .ret) := by
  simp [exec, execRet, h]

/-- Settles O23: a return with a call outstanding is a write of SP and PC; one with none raises. -/
theorem returnPopsThePushedAddress : Obligations.ReturnPopsThePushedAddress := by
  refine ⟨rfl, fun s k hk => ?_, fun s hs h0 => ?_⟩
  · exact ⟨_, exec_ret_of_sp_succ hk, rfl, rfl, fun _ => rfl, changesOnly_setSp_setPc s _ _⟩
  · rw [exec_ret_of_sp_zero h0, State.raiseStackUnderflow, State.raise_eq]
    exact ⟨_, rfl, by simp [hs], by simp [hs]⟩

/-! ### The skips with an immediate -/

theorem exec_seImm (x : Reg) (kk : Byte) (s : State) :
    exec (.seImm x kk) s = .next (s.skipIf (s.reg x == kk)) := rfl

theorem exec_sneImm (x : Reg) (kk : Byte) (s : State) :
    exec (.sneImm x kk) s = .next (s.skipIf (s.reg x != kk)) := rfl

/-- The skip policy is a write of PC, so nothing else changes (R104). -/
theorem changesOnly_skipIf (s : State) (holds : Bool) : ChangesOnly noReg [] s (s.skipIf holds) :=
  changesOnly_setPc s _

/-- The skip policy as a number: PC + 4 or PC + 2, modulo 65536 (R9, R104). -/
theorem State.toNat_skipIf_pc (s : State) (holds : Bool) :
    (s.skipIf holds).pc.toNat = if holds then (s.pc.toNat + 4) % 65536 else (s.pc.toNat + 2) % 65536 := by
  cases holds
  · exact BitVec.toNat_add s.pc 2
  · exact BitVec.toNat_add s.pc 4

/-- Settles O25: both are the skip policy, on equality and on its negation. -/
theorem immediateSkipsCompareAndSkip : Obligations.ImmediateSkipsCompareAndSkip := by
  intro x kk s
  refine ⟨decodeWord_seImm x kk, decodeWord_sneImm x kk, _, _, exec_seImm x kk s, exec_sneImm x kk s, ?_, ?_,
    changesOnly_skipIf s _, changesOnly_skipIf s _⟩
  · simp [State.toNat_skipIf_pc, BitVec.toNat_inj]
  · by_cases heq : s.reg x = kk <;> simp [State.toNat_skipIf_pc, BitVec.toNat_inj, heq]

end Sys2Proof.Machine
end

section
/-! The instructions of arithmetic and logic that define no flag (42_arithmetic_logic.md R141 to R144, R150, R151): their
words decode to them, and each writes its result into Vx, sets PC to PC + 2 and changes nothing else. -/

namespace Sys2Proof

/-- Family 8 goes on to its second level (R77, R103). -/
theorem decodeWord_family8 (x y n : Nibble) :
    decodeWord (formatXYN 0x8#4 x y n) = decodeFamily8 (formatXYN 0x8#4 x y n) := by
  simp [decodeWord]

theorem decodeWord_ldReg (x y : Reg) :
    decodeWord (formatXYN 0x8#4 (nibbleOf x) (nibbleOf y) 0x0#4) = .ok (.ldReg x y) := by
  simp [decodeWord_family8, decodeFamily8, xReg, yReg]

theorem decodeWord_orReg (x y : Reg) :
    decodeWord (formatXYN 0x8#4 (nibbleOf x) (nibbleOf y) 0x1#4) = .ok (.orReg x y) := by
  simp [decodeWord_family8, decodeFamily8, xReg, yReg]

theorem decodeWord_andReg (x y : Reg) :
    decodeWord (formatXYN 0x8#4 (nibbleOf x) (nibbleOf y) 0x2#4) = .ok (.andReg x y) := by
  simp [decodeWord_family8, decodeFamily8, xReg, yReg]

theorem decodeWord_xorReg (x y : Reg) :
    decodeWord (formatXYN 0x8#4 (nibbleOf x) (nibbleOf y) 0x3#4) = .ok (.xorReg x y) := by
  simp [decodeWord_family8, decodeFamily8, xReg, yReg]

theorem decodeWord_ldImm (x : Reg) (kk : Byte) :
    decodeWord (formatXK 0x6#4 (nibbleOf x) kk) = .ok (.ldImm x kk) := by
  simp [decodeWord, xReg]

theorem decodeWord_addImm (x : Reg) (kk : Byte) :
    decodeWord (formatXK 0x7#4 (nibbleOf x) kk) = .ok (.addImm x kk) := by
  simp [decodeWord, xReg]

end Sys2Proof

namespace Sys2Proof.Machine

/-! ### A result with no flag -/

theorem State.writeNoFlag_reg_self (s : State) (x : Reg) (b : Byte) : (s.writeNoFlag x b).reg x = b := by simp

/-- VF is kept with every other register, unless it is the destination (R21, R140). -/
theorem changesOnly_writeNoFlag (s : State) (x : Reg) (b : Byte) : ChangesOnly (· = x) [] s (s.writeNoFlag x b) := by
  constructor
  case regs_kept =>
    intro r hr
    rw [State.writeNoFlag_reg, if_neg (Ne.symm hr)]
  all_goals simp [State.writeNoFlag, State.advance]

/-! ### LD, OR, AND and XOR between registers -/

theorem exec_ldReg (x y : Reg) (s : State) : exec (.ldReg x y) s = .next (s.writeNoFlag x (s.reg y)) := rfl

theorem exec_orReg (x y : Reg) (s : State) :
    exec (.orReg x y) s = .next (s.writeNoFlag x (s.reg x ||| s.reg y)) := rfl

theorem exec_andReg (x y : Reg) (s : State) :
    exec (.andReg x y) s = .next (s.writeNoFlag x (s.reg x &&& s.reg y)) := rfl

theorem exec_xorReg (x y : Reg) (s : State) :
    exec (.xorReg x y) s = .next (s.writeNoFlag x (s.reg x ^^^ s.reg y)) := rfl

/-- Settles O28: each is a write with no flag, and the bits of its result are those of the bitwise operation. -/
theorem loadAndLogicLeaveTheFlagAlone : Obligations.LoadAndLogicLeaveTheFlagAlone := by
  intro x y s
  refine ⟨⟨decodeWord_ldReg x y, decodeWord_orReg x y, decodeWord_andReg x y, decodeWord_xorReg x y⟩, ?_, ?_, ?_, ?_⟩
  · exact ⟨_, exec_ldReg x y s, s.writeNoFlag_reg_self x _, rfl, changesOnly_writeNoFlag s x _⟩
  · refine ⟨_, exec_orReg x y s, fun b _ => ?_, rfl, changesOnly_writeNoFlag s x _⟩
    rw [State.writeNoFlag_reg_self, BitVec.getLsbD_or]
  · refine ⟨_, exec_andReg x y s, fun b _ => ?_, rfl, changesOnly_writeNoFlag s x _⟩
    rw [State.writeNoFlag_reg_self, BitVec.getLsbD_and]
  · refine ⟨_, exec_xorReg x y s, fun b _ => ?_, rfl, changesOnly_writeNoFlag s x _⟩
    rw [State.writeNoFlag_reg_self, BitVec.getLsbD_xor]

/-! ### SET and ADD-immediate -/

theorem exec_ldImm (x : Reg) (kk : Byte) (s : State) : exec (.ldImm x kk) s = .next (s.writeNoFlag x kk) := rfl

theorem exec_addImm (x : Reg) (kk : Byte) (s : State) :
    exec (.addImm x kk) s = .next (s.writeNoFlag x (s.reg x + kk)) := rfl

/-- Settles O31: both are a write with no flag, and a sum of bytes is the sum modulo 256. -/
theorem immediateLoadAndAddHaveNoFlag : Obligations.ImmediateLoadAndAddHaveNoFlag := by
  intro x kk s
  refine ⟨decodeWord_ldImm x kk, decodeWord_addImm x kk, ?_, ?_⟩
  · exact ⟨_, exec_ldImm x kk s, s.writeNoFlag_reg_self x kk, rfl, changesOnly_writeNoFlag s x kk⟩
  · refine ⟨_, exec_addImm x kk s, ?_, rfl, changesOnly_writeNoFlag s x _⟩
    rw [State.writeNoFlag_reg_self, BitVec.toNat_add]

end Sys2Proof.Machine
end

section
/-! The instructions that write I and no flag (43_memory_index.md R170): the word decodes to its instruction, which writes
I, sets PC to PC + 2 and changes nothing else. -/

namespace Sys2Proof

theorem decodeWord_ldI (nnn : Address) : decodeWord (formatA 0xA#4 nnn) = .ok (.ldI nnn) := by simp [decodeWord]

end Sys2Proof

namespace Sys2Proof.Machine

/-- A write of I and the default PC policy: no register, VF included, and no other part changes (R104, R170). -/
theorem changesOnly_setIndex_advance (s : State) (w : Word) :
    ChangesOnly noReg [.index] s (s.setIndex w).advance := by
  constructor <;> simp [State.advance]

theorem exec_ldI (nnn : Address) (s : State) : exec (.ldI nnn) s = .next (s.setIndex (zext16 nnn)).advance := rfl

/-- Settles O33: I is the zero-extended address, whose number is that of the twelve bits. -/
theorem setIndexLoadsTheAddress : Obligations.SetIndexLoadsTheAddress := by
  intro nnn s
  have hI : (s.setIndex (zext16 nnn)).advance.index.toNat = nnn.toNat := toNat_zext16 nnn
  refine ⟨decodeWord_ldI nnn, _, exec_ldI nnn s, hI, ?_, rfl, changesOnly_setIndex_advance s _⟩
  rw [hI]
  exact Nat.le_of_lt_succ nnn.isLt

end Sys2Proof.Machine
end

section
/-! CLEAR (44_display.md R192): it blanks the display, sets PC to PC + 2 and changes nothing else. -/

namespace Sys2Proof.Machine

/-- A write of the display and the default PC policy: no register, VF included, and no other part changes (R104, R192). -/
theorem changesOnly_setDisplay_advance (s : State) (d : Display) :
    ChangesOnly noReg [.display] s (s.setDisplay d).advance := by
  constructor <;> simp [State.advance]

theorem exec_cls (s : State) : exec .cls s = .next (s.setDisplay Display.blank).advance := rfl

/-- Settles O40: CLEAR replaces the display by the blank one, which has no set pixel, and advances PC. -/
theorem clearUnsetsEveryPixel : Obligations.ClearUnsetsEveryPixel :=
  ⟨rfl, fun s => ⟨_, exec_cls s, Display.pixel_blank, rfl, changesOnly_setDisplay_advance s _⟩⟩

end Sys2Proof.Machine
end

section
/-! The timer instructions (46_timers.md R210 to R212): their words decode to them, and each moves one byte between Vx and
a timer, sets PC to PC + 2 and changes nothing else. -/

namespace Sys2Proof

/-- Family F goes on to its second level (R79, R103). -/
theorem decodeWord_familyF (x : Nibble) (kk : Byte) :
    decodeWord (formatXK 0xF#4 x kk) = decodeFamilyF (formatXK 0xF#4 x kk) := by
  simp [decodeWord]

theorem decodeWord_ldVxDt (x : Reg) : decodeWord (formatXK 0xF#4 (nibbleOf x) 0x07#8) = .ok (.ldVxDt x) := by
  simp [decodeWord_familyF, decodeFamilyF, xReg]

theorem decodeWord_ldDtVx (x : Reg) : decodeWord (formatXK 0xF#4 (nibbleOf x) 0x15#8) = .ok (.ldDtVx x) := by
  simp [decodeWord_familyF, decodeFamilyF, xReg]

theorem decodeWord_ldStVx (x : Reg) : decodeWord (formatXK 0xF#4 (nibbleOf x) 0x18#8) = .ok (.ldStVx x) := by
  simp [decodeWord_familyF, decodeFamilyF, xReg]

end Sys2Proof

namespace Sys2Proof.Machine

/-- A write of DT and the default PC policy: no register and no other part, ST included, changes (R104, R211). -/
theorem changesOnly_setDt_advance (s : State) (b : Byte) : ChangesOnly noReg [.delay] s (s.setDt b).advance := by
  constructor <;> simp [State.advance]

/-- A write of ST and the default PC policy: no register and no other part, DT included, changes (R104, R212). -/
theorem changesOnly_setSt_advance (s : State) (b : Byte) : ChangesOnly noReg [.sound] s (s.setSt b).advance := by
  constructor <;> simp [State.advance]

theorem exec_ldVxDt (x : Reg) (s : State) : exec (.ldVxDt x) s = .next (s.writeNoFlag x s.dt) := rfl

theorem exec_ldDtVx (x : Reg) (s : State) : exec (.ldDtVx x) s = .next (s.setDt (s.reg x)).advance := rfl

theorem exec_ldStVx (x : Reg) (s : State) : exec (.ldStVx x) s = .next (s.setSt (s.reg x)).advance := rfl

/-- Settles O45: the read of DT is a write of Vx with no flag, which keeps DT; the other two write their timer and advance
PC. -/
theorem timerInstructionsMoveOneByte : Obligations.TimerInstructionsMoveOneByte := by
  intro x s
  refine ⟨⟨decodeWord_ldVxDt x, decodeWord_ldDtVx x, decodeWord_ldStVx x⟩, ?_, ?_, ?_⟩
  · exact ⟨_, exec_ldVxDt x s, s.writeNoFlag_reg_self x s.dt, rfl, changesOnly_writeNoFlag s x s.dt⟩
  · exact ⟨_, exec_ldDtVx x s, rfl, rfl, changesOnly_setDt_advance s (s.reg x)⟩
  · exact ⟨_, exec_ldStVx x s, rfl, rfl, changesOnly_setSt_advance s (s.reg x)⟩

end Sys2Proof.Machine
end

section
/-! The round trip of encoder and decoder (30_encoding.md R71 to R81) and the invalid words (R80). -/

namespace Sys2Proof

/-! ### The words not met before decode to their instructions -/

theorem decodeWord_call (nnn : Address) : decodeWord (formatA 0x2#4 nnn) = .ok (.call nnn) := by simp [decodeWord]

theorem decodeWord_jpV0 (nnn : Address) : decodeWord (formatA 0xB#4 nnn) = .ok (.jpV0 nnn) := by simp [decodeWord]

theorem decodeWord_rnd (x : Reg) (kk : Byte) : decodeWord (formatXK 0xC#4 (nibbleOf x) kk) = .ok (.rnd x kk) := by
  simp [decodeWord, xReg]

theorem decodeWord_seReg (x y : Reg) (ign : Nibble) :
    decodeWord (formatXYN 0x5#4 (nibbleOf x) (nibbleOf y) ign) = .ok (.seReg x y ign) := by
  simp [decodeWord, xReg, yReg]

theorem decodeWord_sneReg (x y : Reg) (ign : Nibble) :
    decodeWord (formatXYN 0x9#4 (nibbleOf x) (nibbleOf y) ign) = .ok (.sneReg x y ign) := by
  simp [decodeWord, xReg, yReg]

/-- The row count survives its 4-bit field exactly when it is at most 15 (R73). -/
theorem decodeWord_drw (x y : Reg) {n : Nat} (hn : n ≤ 15) :
    decodeWord (formatXYN 0xD#4 (nibbleOf x) (nibbleOf y) (BitVec.ofNat 4 n)) = .ok (.drw x y n) := by
  have hlt : n < 16 := Nat.lt_succ_of_le hn
  simp [decodeWord, xReg, yReg, hlt]

theorem decodeWord_addReg (x y : Reg) :
    decodeWord (formatXYN 0x8#4 (nibbleOf x) (nibbleOf y) 0x4#4) = .ok (.addReg x y) := by
  simp [decodeWord_family8, decodeFamily8, xReg, yReg]

theorem decodeWord_subReg (x y : Reg) :
    decodeWord (formatXYN 0x8#4 (nibbleOf x) (nibbleOf y) 0x5#4) = .ok (.subReg x y) := by
  simp [decodeWord_family8, decodeFamily8, xReg, yReg]

theorem decodeWord_shr (x : Reg) (ign : Nibble) :
    decodeWord (formatXYN 0x8#4 (nibbleOf x) ign 0x6#4) = .ok (.shr x ign) := by
  simp [decodeWord_family8, decodeFamily8, xReg]

theorem decodeWord_subnReg (x y : Reg) :
    decodeWord (formatXYN 0x8#4 (nibbleOf x) (nibbleOf y) 0x7#4) = .ok (.subnReg x y) := by
  simp [decodeWord_family8, decodeFamily8, xReg, yReg]

theorem decodeWord_shl (x : Reg) (ign : Nibble) :
    decodeWord (formatXYN 0x8#4 (nibbleOf x) ign 0xE#4) = .ok (.shl x ign) := by
  simp [decodeWord_family8, decodeFamily8, xReg]

theorem decodeWord_skp (x : Reg) (ign : Nibble) :
    decodeWord (formatXYN 0xE#4 (nibbleOf x) ign 0xE#4) = .ok (.skp x ign) := by
  simp [decodeWord, decodeFamilyE, xReg]

theorem decodeWord_sknp (x : Reg) (ign : Nibble) :
    decodeWord (formatXYN 0xE#4 (nibbleOf x) ign 0x1#4) = .ok (.sknp x ign) := by
  simp [decodeWord, decodeFamilyE, xReg]

theorem decodeWord_ldVxK (x : Reg) : decodeWord (formatXK 0xF#4 (nibbleOf x) 0x0A#8) = .ok (.ldVxK x) := by
  simp [decodeWord_familyF, decodeFamilyF, xReg]

theorem decodeWord_addI (x : Reg) : decodeWord (formatXK 0xF#4 (nibbleOf x) 0x1E#8) = .ok (.addI x) := by
  simp [decodeWord_familyF, decodeFamilyF, xReg]

theorem decodeWord_ldF (x : Reg) : decodeWord (formatXK 0xF#4 (nibbleOf x) 0x29#8) = .ok (.ldF x) := by
  simp [decodeWord_familyF, decodeFamilyF, xReg]

theorem decodeWord_ldB (x : Reg) : decodeWord (formatXK 0xF#4 (nibbleOf x) 0x33#8) = .ok (.ldB x) := by
  simp [decodeWord_familyF, decodeFamilyF, xReg]

theorem decodeWord_ldMemVx (x : Reg) : decodeWord (formatXK 0xF#4 (nibbleOf x) 0x55#8) = .ok (.ldMemVx x) := by
  simp [decodeWord_familyF, decodeFamilyF, xReg]

theorem decodeWord_ldVxMem (x : Reg) : decodeWord (formatXK 0xF#4 (nibbleOf x) 0x65#8) = .ok (.ldVxMem x) := by
  simp [decodeWord_familyF, decodeFamilyF, xReg]

/-! ### Decode of encode -/

theorem decodeWord_encode : ∀ i : Instr, i.wellFormed = true → decodeWord (encode i) = .ok i
  | .cls, _ => rfl
  | .ret, _ => rfl
  | .jp nnn, _ => decodeWord_jp nnn
  | .call nnn, _ => decodeWord_call nnn
  | .seImm x kk, _ => decodeWord_seImm x kk
  | .sneImm x kk, _ => decodeWord_sneImm x kk
  | .seReg x y ign, _ => decodeWord_seReg x y ign
  | .ldImm x kk, _ => decodeWord_ldImm x kk
  | .addImm x kk, _ => decodeWord_addImm x kk
  | .ldReg x y, _ => decodeWord_ldReg x y
  | .orReg x y, _ => decodeWord_orReg x y
  | .andReg x y, _ => decodeWord_andReg x y
  | .xorReg x y, _ => decodeWord_xorReg x y
  | .addReg x y, _ => decodeWord_addReg x y
  | .subReg x y, _ => decodeWord_subReg x y
  | .shr x ign, _ => decodeWord_shr x ign
  | .subnReg x y, _ => decodeWord_subnReg x y
  | .shl x ign, _ => decodeWord_shl x ign
  | .sneReg x y ign, _ => decodeWord_sneReg x y ign
  | .ldI nnn, _ => decodeWord_ldI nnn
  | .jpV0 nnn, _ => decodeWord_jpV0 nnn
  | .rnd x kk, _ => decodeWord_rnd x kk
  | .drw x y _, hn => decodeWord_drw x y (of_decide_eq_true hn)
  | .skp x ign, _ => decodeWord_skp x ign
  | .sknp x ign, _ => decodeWord_sknp x ign
  | .ldVxDt x, _ => decodeWord_ldVxDt x
  | .ldVxK x, _ => decodeWord_ldVxK x
  | .ldDtVx x, _ => decodeWord_ldDtVx x
  | .ldStVx x, _ => decodeWord_ldStVx x
  | .addI x, _ => decodeWord_addI x
  | .ldF x, _ => decodeWord_ldF x
  | .ldB x, _ => decodeWord_ldB x
  | .ldMemVx x, _ => decodeWord_ldMemVx x
  | .ldVxMem x, _ => decodeWord_ldVxMem x

/-- Two bytes at the head of a list are read as the word they make, and the rest is left (R54, R70). -/
theorem decodeBytes_of_decodeWord {high low : Byte} {i : Instr} (h : decodeWord (wordOfBytes high low) = .ok i)
    (rest : List Byte) : decodeBytes (high :: low :: rest) = .ok (i, rest) := by
  simp [decodeBytes, h]

/-- Settles O2: each instruction's word decodes to it, and the two bytes of a word make the word. -/
theorem decodingAnEncodedInstructionGivesItBack : Obligations.DecodingAnEncodedInstructionGivesItBack := by
  intro i hwf
  have hdecode := decodeWord_encode i hwf
  refine ⟨hdecode, decodeBytes_of_decodeWord ?_⟩
  rwa [Machine.wordOfBytes_bytes]

/-! ### Encode of decode -/

theorem wellFormed_of_decodeFamily0 {op : Word} {i : Instr} (h : decodeFamily0 op = .ok i) : i.wellFormed = true := by
  unfold decodeFamily0 at h
  split at h <;> cases h <;> rfl

theorem wellFormed_of_decodeFamily8 {op : Word} {i : Instr} (h : decodeFamily8 op = .ok i) : i.wellFormed = true := by
  unfold decodeFamily8 at h
  split at h <;> cases h <;> rfl

theorem wellFormed_of_decodeFamilyE {op : Word} {i : Instr} (h : decodeFamilyE op = .ok i) : i.wellFormed = true := by
  unfold decodeFamilyE at h
  split at h <;> cases h <;> rfl

theorem wellFormed_of_decodeFamilyF {op : Word} {i : Instr} (h : decodeFamilyF op = .ok i) : i.wellFormed = true := by
  unfold decodeFamilyF at h
  split at h <;> cases h <;> rfl

/-- DRAW's row count is read from a 4-bit field; every other operand fits its field by its type (R73). -/
theorem wellFormed_of_decodeWord {op : Word} {i : Instr} (h : decodeWord op = .ok i) : i.wellFormed = true := by
  unfold decodeWord at h
  split at h
  case h_1 => exact wellFormed_of_decodeFamily0 h
  case h_9 => exact wellFormed_of_decodeFamily8 h
  case h_14 =>
    cases h
    exact decide_eq_true (Nat.le_of_lt_succ (nField op).isLt)
  case h_15 => exact wellFormed_of_decodeFamilyE h
  case h_16 => exact wellFormed_of_decodeFamilyF h
  all_goals cases h
  all_goals rfl

/-- Settles O3: the encoder is a left inverse of the decoder, whose terms are well-formed. -/
theorem encodingADecodedWordGivesItBack : Obligations.EncodingADecodedWordGivesItBack :=
  fun _ _ h => ⟨encode_of_decodeWord h, wellFormed_of_decodeWord h⟩

/-- Settles O1: each of the twelve words is evaluated. -/
theorem specWordsDecodeAsWritten : Obligations.SpecWordsDecodeAsWritten := by
  unfold Obligations.SpecWordsDecodeAsWritten
  decide

/-! ### The invalid words, family by family -/

theorem decodeFamily0_invalid_iff (op : Word) :
    decodeFamily0 op = .error (.invalidOpcode op) ↔ op ≠ 0x00E0#16 ∧ op ≠ 0x00EE#16 := by
  unfold decodeFamily0
  split
  case h_1 => simp
  case h_2 => simp
  case h_3 hcls hret => simpa using ⟨hcls, hret⟩

theorem decodeFamily8_invalid_iff (op : Word) :
    decodeFamily8 op = .error (.invalidOpcode op) ↔
      nField op ∈ [0x8#4, 0x9#4, 0xA#4, 0xB#4, 0xC#4, 0xD#4, 0xF#4] := by
  unfold decodeFamily8
  split
  case h_10 h0 h1 h2 h3 h4 h5 h6 h7 hE =>
    refine iff_of_true rfl ?_
    have hall : ∀ n : Nibble, n ∈ [0x0#4, 0x1#4, 0x2#4, 0x3#4, 0x4#4, 0x5#4, 0x6#4, 0x7#4, 0xE#4] ∨
        n ∈ [0x8#4, 0x9#4, 0xA#4, 0xB#4, 0xC#4, 0xD#4, 0xF#4] := by decide
    exact (hall (nField op)).resolve_left (by simpa using ⟨h0, h1, h2, h3, h4, h5, h6, h7, hE⟩)
  all_goals
    rename_i hn
    simp [hn]

theorem decodeFamilyE_invalid_iff (op : Word) :
    decodeFamilyE op = .error (.invalidOpcode op) ↔ nField op ∉ [0x1#4, 0xE#4] := by
  unfold decodeFamilyE
  split
  case h_3 hE h1 => simpa using ⟨h1, hE⟩
  all_goals
    rename_i hn
    simp [hn]

theorem decodeFamilyF_invalid_iff (op : Word) :
    decodeFamilyF op = .error (.invalidOpcode op) ↔
      kkField op ∉ [0x07#8, 0x0A#8, 0x15#8, 0x18#8, 0x1E#8, 0x29#8, 0x33#8, 0x55#8, 0x65#8] := by
  unfold decodeFamilyF
  split
  case h_10 h07 h0A h15 h18 h1E h29 h33 h55 h65 => simpa using ⟨h07, h0A, h15, h18, h1E, h29, h33, h55, h65⟩
  all_goals
    rename_i hk
    simp [hk]

/-- Settles O5: families 0, 8, E and F are invalid as their second level says; no other family is. -/
theorem invalidWordsAreThoseTheSpecLists : Obligations.InvalidWordsAreThoseTheSpecLists := by
  intro op
  unfold decodeWord
  split
  case h_1 hf => simp [hf, decodeFamily0_invalid_iff]
  case h_9 hf => simp [hf, decodeFamily8_invalid_iff]
  case h_15 hf => simp [hf, decodeFamilyE_invalid_iff]
  case h_16 hf => simp [hf, decodeFamilyF_invalid_iff]
  case h_17 h0 h1 h2 h3 h4 h5 h6 h7 h8 h9 hA hB hC hD hE hF =>
    have hall : ∀ f : Nibble, f ∈ [0x0#4, 0x1#4, 0x2#4, 0x3#4, 0x4#4, 0x5#4, 0x6#4, 0x7#4, 0x8#4, 0x9#4, 0xA#4, 0xB#4,
        0xC#4, 0xD#4, 0xE#4, 0xF#4] := by decide
    exact absurd (hall (familyField op))
      (by simpa using ⟨h0, h1, h2, h3, h4, h5, h6, h7, h8, h9, hA, hB, hC, hD, hE, hF⟩)
  all_goals
    rename_i hf
    simp [hf]

end Sys2Proof
end

section
/-! CALL, the pairing of CALL and RET, register skips and the indexed jump (41_control_flow.md R121, R125 to R128). -/

namespace Sys2Proof.Machine

/-! ### CALL, and the RET that pops its slot -/

/-- Below 16 outstanding calls CALL writes the slot SP names, SP and PC (R121). -/
theorem exec_call_of_sp {s : State} {k : Fin 16} (nnn : Address) (h : s.sp.val = k.val) :
    exec (.call nnn) s = .next (((s.setSlot k s.nextPc).setSp k.succ).setPc (zext16 nnn)) := by
  have hne : k.val ≠ 16 := Nat.ne_of_lt k.isLt
  simp only [exec, execCall, h, hne, dite_false]
  rfl

theorem exec_call_of_sp_full {s : State} (nnn : Address) (h : s.sp.val = 16) :
    exec (.call nnn) s = .next (s.raiseStackOverflow (.call nnn)) := by
  simp [exec, execCall, h]

/-- A call that does not overflow names the slot it writes. -/
theorem State.exists_slot_of_sp {s : State} (h : s.sp.val ≠ 16) : ∃ k : Fin 16, s.sp.val = k.val :=
  ⟨⟨s.sp.val, by omega⟩, rfl⟩

theorem changesOnly_setSlot_setSp_setPc (s : State) (k : Fin 16) (v w : Word) (n : Fin 17) :
    ChangesOnly noReg [.stack] s (((s.setSlot k v).setSp n).setPc w) := by
  constructor <;> simp

theorem State.toNat_nextPc (s : State) : s.nextPc.toNat = (s.pc.toNat + 2) % 65536 := BitVec.toNat_add s.pc 2

/-- Settles O22: below 16 outstanding calls a call is a write of one slot, SP and PC. -/
theorem callPushesTheAddressAfterIt : Obligations.CallPushesTheAddressAfterIt := by
  intro nnn s k hk
  refine ⟨decodeWord_call nnn, _, exec_call_of_sp nnn hk, ?_, fun j hj => ?_, ?_, toNat_zext16 nnn,
    changesOnly_setSlot_setSp_setPc s k _ _ _⟩
  · simp [State.toNat_nextPc]
  · simp [Ne.symm hj]
  · simp [hk]

/-- Settles O24: the slot SP names after the call holds the address the call pushed. -/
theorem returnComesBackAfterTheCall : Obligations.ReturnComesBackAfterTheCall := by
  intro nnn s t u k hk ht hsp hslot
  rw [exec_call_of_sp nnn hk] at ht
  cases ht
  have hu : u.sp.val = k.val + 1 := by rw [hsp]; rfl
  refine ⟨_, exec_ret_of_sp_succ hu, ?_, Fin.ext hk.symm⟩
  simpa [State.nextPc] using hslot

/-! ### The skips between registers -/

theorem exec_seReg (x y : Reg) (ign : Nibble) (s : State) :
    exec (.seReg x y ign) s = .next (s.skipIf (s.reg x == s.reg y)) := rfl

theorem exec_sneReg (x y : Reg) (ign : Nibble) (s : State) :
    exec (.sneReg x y ign) s = .next (s.skipIf (s.reg x != s.reg y)) := rfl

/-- The skip policy as a word: PC + 4 or PC + 2 (R104). -/
theorem State.skipIf_pc (s : State) (holds : Bool) : (s.skipIf holds).pc = if holds then s.pc + 4 else s.pc + 2 := rfl

/-- Settles O26: both are the skip policy, on equality of the two registers and on its negation. -/
theorem registerSkipsCompareAndSkip : Obligations.RegisterSkipsCompareAndSkip := by
  intro x y ign s
  refine ⟨decodeWord_seReg x y ign, decodeWord_sneReg x y ign, _, _, exec_seReg x y ign s, exec_sneReg x y ign s, ?_, ?_, ?_,
    changesOnly_skipIf s _, changesOnly_skipIf s _⟩
  · simp [State.toNat_skipIf_pc, BitVec.toNat_inj]
  · by_cases heq : s.reg x = s.reg y <;> simp [State.toNat_skipIf_pc, BitVec.toNat_inj, heq]
  · rintro rfl
    simp [State.skipIf_pc]

/-! ### JUMP-INDEXED -/

theorem exec_jpV0 (nnn : Address) (s : State) : exec (.jpV0 nnn) s = .next (s.setPc (s.indexedTarget nnn)) := rfl

/-- The sum of a 12-bit address and a byte is below 65536, so nothing wraps (R127). -/
theorem State.toNat_indexedTarget (s : State) (nnn : Address) :
    (s.indexedTarget nnn).toNat = nnn.toNat + (s.reg 0).toNat := by
  have hn := nnn.isLt
  have hr := (s.reg 0).isLt
  rw [State.indexedTarget, BitVec.toNat_add, toNat_zext16, BitVec.toNat_setWidth]
  omega

/-- Settles O27: the jump is a write of PC. -/
theorem indexedJumpAddsV0WithoutMasking : Obligations.IndexedJumpAddsV0WithoutMasking :=
  fun nnn s => ⟨_, exec_jpV0 nnn s, s.toNat_indexedTarget nnn, changesOnly_setPc s _⟩

end Sys2Proof.Machine
end

section
/-! The instructions of arithmetic that define the flag, and RANDOM (42_arithmetic_logic.md R145 to R149, R152). -/

namespace Sys2Proof.Machine

/-! ### A result with a flag -/

theorem changesOnly_writeWithFlag (s : State) (x : Reg) (b : Byte) (f : Bool) :
    ChangesOnly (fun r => r = x ∨ r = 15) [] s (s.writeWithFlag x b f) := by
  constructor
  case regs_kept =>
    intro r hr
    rw [not_or] at hr
    rw [State.writeWithFlag_reg, if_neg (Ne.symm hr.2), if_neg (Ne.symm hr.1)]
  all_goals simp [State.writeWithFlag, State.advance]

theorem State.writeWithFlag_reg_dest (s : State) {x : Reg} (hx : x ≠ 15) (b : Byte) (f : Bool) :
    (s.writeWithFlag x b f).reg x = b := by
  rw [State.writeWithFlag_reg, if_neg (Ne.symm hx), if_pos rfl]

theorem State.writeWithFlag_reg_flag (s : State) (x : Reg) (b : Byte) (f : Bool) :
    (s.writeWithFlag x b f).reg 15 = flagByte f := by
  rw [State.writeWithFlag_reg, if_pos rfl]

theorem toNat_flagByte (f : Bool) : (flagByte f).toNat = if f = true then 1 else 0 := by cases f <;> rfl

/-! ### ADD, SUB and SUBN -/

theorem exec_addReg (x y : Reg) (s : State) : exec (.addReg x y) s =
    .next (s.writeWithFlag x (s.reg x + s.reg y) (carryFlag (s.reg x) (s.reg y))) := rfl

theorem exec_subReg (x y : Reg) (s : State) : exec (.subReg x y) s =
    .next (s.writeWithFlag x (s.reg x - s.reg y) (notBorrowFlag (s.reg x) (s.reg y))) := rfl

theorem exec_subnReg (x y : Reg) (s : State) : exec (.subnReg x y) s =
    .next (s.writeWithFlag x (s.reg y - s.reg x) (notBorrowFlag (s.reg y) (s.reg x))) := rfl

theorem toNat_flagByte_carryFlag (a b : Byte) :
    (flagByte (carryFlag a b)).toNat = if a.toNat + b.toNat > 255 then 1 else 0 := by
  simp only [toNat_flagByte, carryFlag, decide_eq_true_eq]

theorem toNat_flagByte_notBorrowFlag (a b : Byte) :
    (flagByte (notBorrowFlag a b)).toNat = if a.toNat ≥ b.toNat then 1 else 0 := by
  simp only [toNat_flagByte, notBorrowFlag, decide_eq_true_eq]

/-- A difference of bytes, borrowing 256 where needed (R146, R148). -/
theorem toNat_sub_byte (a b : Byte) :
    (a - b).toNat = if a.toNat ≥ b.toNat then a.toNat - b.toNat else a.toNat + 256 - b.toNat := by
  have ha := a.isLt
  have hb := b.isLt
  rw [BitVec.toNat_sub]
  split <;> omega

/-- Settles O29: each is a write with a flag, which is the last write of VF. -/
theorem addAndSubtractDefineTheFlag : Obligations.AddAndSubtractDefineTheFlag := by
  intro x y s
  refine ⟨⟨_, exec_addReg x y s, fun hx => ?_, ?_, rfl, changesOnly_writeWithFlag s x _ _⟩,
    ⟨_, exec_subReg x y s, fun hx => ?_, ?_, rfl, changesOnly_writeWithFlag s x _ _⟩,
    ⟨_, exec_subnReg x y s, fun hx => ?_, ?_, rfl, changesOnly_writeWithFlag s x _ _⟩⟩
  · rw [s.writeWithFlag_reg_dest hx, BitVec.toNat_add]
  · rw [s.writeWithFlag_reg_flag, toNat_flagByte_carryFlag]
  · rw [s.writeWithFlag_reg_dest hx, toNat_sub_byte]
  · rw [s.writeWithFlag_reg_flag, toNat_flagByte_notBorrowFlag]
  · rw [s.writeWithFlag_reg_dest hx, toNat_sub_byte]
  · rw [s.writeWithFlag_reg_flag, toNat_flagByte_notBorrowFlag]

/-! ### SHR and SHL -/

theorem exec_shr (x : Reg) (ign : Nibble) (s : State) : exec (.shr x ign) s =
    .next (s.writeWithFlag x (s.reg x >>> 1) (lowBitFlag (s.reg x))) := rfl

theorem exec_shl (x : Reg) (ign : Nibble) (s : State) : exec (.shl x ign) s =
    .next (s.writeWithFlag x (s.reg x <<< 1) (highBitFlag (s.reg x))) := rfl

theorem toNat_shr_byte (a : Byte) : (a >>> 1).toNat = a.toNat / 2 := by
  rw [BitVec.toNat_ushiftRight, Nat.shiftRight_eq_div_pow]

theorem toNat_shl_byte (a : Byte) : (a <<< 1).toNat = 2 * a.toNat % 256 := by
  rw [BitVec.toNat_shiftLeft, Nat.shiftLeft_eq, Nat.mul_comm]

theorem toNat_flagByte_lowBitFlag (a : Byte) : (flagByte (lowBitFlag a)).toNat = a.toNat % 2 := by
  simp only [toNat_flagByte, lowBitFlag, BitVec.getLsbD, Nat.testBit_zero, decide_eq_true_eq]
  split <;> omega

theorem toNat_flagByte_highBitFlag (a : Byte) : (flagByte (highBitFlag a)).toNat = a.toNat / 128 := by
  have ha := a.isLt
  simp only [toNat_flagByte, highBitFlag, BitVec.getLsbD, Nat.testBit_eq_decide_div_mod_eq, decide_eq_true_eq]
  split <;> omega

/-- Settles O30: each is a write with a flag, the bit shifted out. -/
theorem shiftsMoveTheBitOutIntoTheFlag : Obligations.ShiftsMoveTheBitOutIntoTheFlag := by
  intro x ign s
  refine ⟨⟨_, exec_shr x ign s, fun hx => ?_, ?_, rfl, changesOnly_writeWithFlag s x _ _⟩,
    ⟨_, exec_shl x ign s, fun hx => ?_, ?_, rfl, changesOnly_writeWithFlag s x _ _⟩⟩
  · rw [s.writeWithFlag_reg_dest hx, toNat_shr_byte]
  · rw [s.writeWithFlag_reg_flag, toNat_flagByte_lowBitFlag]
  · rw [s.writeWithFlag_reg_dest hx, toNat_shl_byte]
  · rw [s.writeWithFlag_reg_flag, toNat_flagByte_highBitFlag]

/-! ### RANDOM -/

theorem exec_rnd (x : Reg) (kk : Byte) (s : State) :
    exec (.rnd x kk) s = .next (s.countDraw.writeNoFlag x (s.nextDraw &&& kk)) := rfl

theorem changesOnly_countDraw_writeNoFlag (s : State) (x : Reg) (b : Byte) :
    ChangesOnly (· = x) [.draws] s (s.countDraw.writeNoFlag x b) := by
  obtain ⟨hregs⟩ := changesOnly_writeNoFlag s.countDraw x b
  constructor
  case regs_kept => exact hregs
  all_goals simp [State.writeNoFlag, State.advance]

/-- Settles O32: RANDOM counts a draw and writes its byte under the mask, with no flag. -/
theorem randomIsTheDrawUnderTheMask : Obligations.RandomIsTheDrawUnderTheMask := by
  intro x kk s
  refine ⟨_, exec_rnd x kk s, fun b _ => ?_, rfl, rfl, changesOnly_countDraw_writeNoFlag s x _⟩
  rw [State.writeNoFlag_reg_self, BitVec.getLsbD_and]
  rfl

end Sys2Proof.Machine
end

section
/-! The instructions that access memory at I, and index arithmetic (43_memory_index.md R171 to R176, 20_memory.md R62). -/

namespace Sys2Proof.Machine

/-! ### ADD-TO-INDEX and FONT-ADDRESS -/

theorem exec_addI (x : Reg) (s : State) :
    exec (.addI x) s = .next (s.setIndex (s.index + (s.reg x).setWidth 16)).advance := rfl

theorem exec_ldF (x : Reg) (s : State) : exec (.ldF x) s = .next (s.setIndex (glyphAddress (s.reg x))).advance := rfl

/-- The largest glyph address is 255 * 5, which fits a word (R172). -/
theorem toNat_glyphAddress (b : Byte) : (glyphAddress b).toNat = b.toNat * 5 := by
  have hb := b.isLt
  simp only [glyphAddress, Config.glyphBytes, BitVec.toNat_ofNat]
  omega

theorem resetByte_of_lt (f : Config.Font) {a : Nat} (h : a < 80) : resetByte f a = f[a] := dif_pos h

theorem resetByte_of_ge (f : Config.Font) {a : Nat} (h : 80 ≤ a) : resetByte f a = 0 := dif_neg (Nat.not_lt.2 h)

/-- With nothing listed, memory reads as reset left it (R58). -/
theorem State.byteAt_of_mem_nil {s : State} (h : s.mem = []) (a : Nat) : s.byteAt a = resetByte s.font a := by
  rw [State.byteAt, h, Memory.byteAt]

/-- Settles O34: both write I and no register; a digit's glyph is the font's, five bytes each. -/
theorem indexArithmeticHasNoFlag : Obligations.IndexArithmeticHasNoFlag := by
  intro x s
  have hglyph := toNat_glyphAddress (s.reg x)
  refine ⟨⟨_, exec_addI x s, ?_, rfl, changesOnly_setIndex_advance s _⟩,
    ⟨_, exec_ldF x s, hglyph, rfl, changesOnly_setIndex_advance s _, fun hmem hdigit k hk => ?_⟩⟩
  · have hr := (s.reg x).isLt
    show (s.index + (s.reg x).setWidth 16).toNat = _
    rw [BitVec.toNat_add, BitVec.toNat_setWidth_of_le (by decide)]
  · show some (s.byteAt ((glyphAddress (s.reg x)).toNat + k)) = _
    rw [hglyph, Nat.mul_comm, State.byteAt_of_mem_nil hmem, resetByte_of_lt _ (by omega), Vector.getElem?_eq_getElem]

/-! ### The range at I -/

/-- A store of bytes at I and the default PC policy: no register and no other part changes (R104, R176). -/
theorem changesOnly_storeAtIndex_advance (s : State) (bs : List Byte) :
    ChangesOnly noReg [.memory] s (s.storeAtIndex bs).advance := by
  constructor <;> simp [State.storeAtIndex, State.advance]

theorem State.storeAtIndex_byteAt_add (s : State) (bs : List Byte) {k : Nat} (h : k < bs.length) :
    (s.storeAtIndex bs).byteAt (s.index.toNat + k) = bs[k] := by
  rw [State.storeAtIndex_byteAt, dif_pos ⟨Nat.le_add_right _ _, by omega⟩]
  simp

theorem State.indexRangeOk_of_le {s : State} {n : Nat} (h : s.index.toNat + n ≤ 4096) : s.indexRangeOk n = true :=
  (s.indexRangeOk_iff n).2 (.inr h)

theorem exec_ldB_of_ok {s : State} (x : Reg) (h : s.indexRangeOk 3 = true) :
    exec (.ldB x) s = .next (s.storeAtIndex (decimalDigits (s.reg x))).advance := if_pos h

theorem exec_ldMemVx_of_ok {s : State} (x : Reg) (h : s.indexRangeOk (x.val + 1) = true) :
    exec (.ldMemVx x) s = .next (s.storeAtIndex (s.regBlock x)).advance := if_pos h

theorem exec_ldVxMem_of_ok {s : State} (x : Reg) (h : s.indexRangeOk (x.val + 1) = true) :
    exec (.ldVxMem x) s =
      .next (s.setRegs (loadBlock s.regs 0 (s.bytesAtIndex (x.val + 1)))).advance := if_pos h

/-- An instruction whose range at I leaves memory raises OutOfRange and does nothing else (R176, R254). -/
theorem exec_of_range_bad {s : State} {n : Nat} :
    ∀ {i : Instr}, indexBytes i = some n → s.indexRangeOk n = false → exec i s = .next (s.raiseIndexRange i)
  | .drw _ _ _, rfl, h => if_neg (by simp [h])
  | .ldB _, rfl, h => if_neg (by simp [h])
  | .ldMemVx _, rfl, h => if_neg (by simp [h])
  | .ldVxMem _, rfl, h => if_neg (by simp [h])

/-! ### STORE-BCD -/

/-- The three decimal digits make the byte (R173). -/
theorem decimalDigits_value (b : Byte) :
    100 * (BitVec.ofNat 8 (b.toNat / 100)).toNat + 10 * (BitVec.ofNat 8 (b.toNat / 10 % 10)).toNat
        + (BitVec.ofNat 8 (b.toNat % 10)).toNat = b.toNat ∧
      (BitVec.ofNat 8 (b.toNat / 100)).toNat ≤ 2 ∧ (BitVec.ofNat 8 (b.toNat / 10 % 10)).toNat ≤ 9 ∧
      (BitVec.ofNat 8 (b.toNat % 10)).toNat ≤ 9 := by
  have hb := b.isLt
  simp only [BitVec.toNat_ofNat]
  omega

/-- Settles O35: the three digits are stored at I, I + 1, I + 2. -/
theorem storeBcdWritesTheThreeDigits : Obligations.StoreBcdWritesTheThreeDigits := by
  intro x s hrange
  have hok : s.indexRangeOk 3 = true := State.indexRangeOk_of_le (by omega)
  have hstored : ∀ k (hk : k < 3), (s.storeAtIndex (decimalDigits (s.reg x))).advance.byteAt (s.index.toNat + k) =
      (decimalDigits (s.reg x))[k] := fun k hk => s.storeAtIndex_byteAt_add (decimalDigits (s.reg x)) hk
  refine ⟨_, exec_ldB_of_ok x hok, ?_, fun a ha => ?_, rfl, changesOnly_storeAtIndex_advance s _⟩
  · have h0 := hstored 0 (by decide)
    rw [Nat.add_zero] at h0
    rw [h0, hstored 1 (by decide), hstored 2 (by decide)]
    exact decimalDigits_value (s.reg x)
  · exact s.storeAtIndex_byteAt_outside _ a ha

/-! ### REGISTER-DUMP -/

theorem State.storeAtIndex_regBlock_byteAt (s : State) {x r : Reg} (h : r ≤ x) :
    (s.storeAtIndex (s.regBlock x)).byteAt (s.index.toNat + r.val) = s.reg r := by
  have hr : r.val < (s.regBlock x).length := by
    rw [State.length_regBlock]
    exact Nat.lt_succ_of_le h
  rw [s.storeAtIndex_byteAt_add _ hr, State.getElem_regBlock]

/-- Settles O36: the block of registers is stored at I, I + 1, ... -/
theorem registerDumpStoresTheBlock : Obligations.RegisterDumpStoresTheBlock := by
  intro x s hrange
  have hok : s.indexRangeOk (x.val + 1) = true := State.indexRangeOk_of_le (by omega)
  refine ⟨_, exec_ldMemVx_of_ok x hok, fun r hr => s.storeAtIndex_regBlock_byteAt hr, fun a ha => ?_, rfl,
    changesOnly_storeAtIndex_advance s _⟩
  refine s.storeAtIndex_byteAt_outside _ a (ha.imp_right fun h => ?_)
  rw [State.length_regBlock]
  omega

/-- Settles O38: I is the PC after the dump, so the fetch reads the first two registers of the block. -/
theorem storedBytesAreFetchedNext : Obligations.StoredBytesAreFetchedNext := by
  intro x s hx hrange hpc
  have hok : s.indexRangeOk (x.val + 1) = true := State.indexRangeOk_of_le (by omega)
  have hpc' : (s.storeAtIndex (s.regBlock x)).advance.pc.toNat = s.index.toNat := by
    have hadd : (s.storeAtIndex (s.regBlock x)).advance.pc.toNat = (s.pc.toNat + 2) % 65536 := s.toNat_nextPc
    omega
  have h0 : (0 : Reg) ≤ x := Fin.zero_le x
  have h1 : (1 : Reg) ≤ x := hx
  refine ⟨_, _, exec_ldMemVx_of_ok x hok, State.fetch_of_lt _ (by simp only [hpc', Config.memSize]; omega), ?_⟩
  rw [toNat_wordOfBytes, hpc', State.advance_byteAt, State.advance_byteAt]
  exact congrArg₂ (fun high low : Byte => high.toNat * 256 + low.toNat) (s.storeAtIndex_regBlock_byteAt h0)
    (s.storeAtIndex_regBlock_byteAt h1)

/-! ### REGISTER-LOAD -/

/-- Loaded registers and the default PC policy: the registers up to x change, and nothing else (R104, R175). -/
theorem changesOnly_loadBlock_advance (s : State) (x : Reg) :
    ChangesOnly (· ≤ x) [] s (s.setRegs (loadBlock s.regs 0 (s.bytesAtIndex (x.val + 1)))).advance := by
  constructor
  case regs_kept =>
    intro r hr
    rw [State.advance_reg, State.setRegs_loadBlock_reg, if_neg fun h => hr (Nat.le_of_lt_succ h)]
  all_goals simp [State.advance]

/-- Settles O37: the registers up to x take the bytes at I, I + 1, ... -/
theorem registerLoadLoadsTheBlock : Obligations.RegisterLoadLoadsTheBlock := by
  intro x s hrange
  have hok : s.indexRangeOk (x.val + 1) = true := State.indexRangeOk_of_le (by omega)
  refine ⟨_, exec_ldVxMem_of_ok x hok, fun r hr => ?_, rfl, changesOnly_loadBlock_advance s x⟩
  rw [State.advance_reg, State.setRegs_loadBlock_reg, if_pos (Nat.lt_succ_of_le hr)]

end Sys2Proof.Machine
end

section
/-! Input (45_input.md R201 to R203): the key skips, and the wait for a key. -/

namespace Sys2Proof.Machine

/-! ### The key skips -/

theorem exec_skp (x : Reg) (ign : Nibble) (s : State) :
    exec (.skp x ign) s = .next (s.skipIf (s.key (keyIndex (s.reg x)))) := rfl

theorem exec_sknp (x : Reg) (ign : Nibble) (s : State) :
    exec (.sknp x ign) s = .next (s.skipIf (!s.key (keyIndex (s.reg x)))) := rfl

/-- Settles O43: both are the skip policy, on the key of the low nibble of Vx and on its negation. -/
theorem keySkipsReadTheKeyOfTheLowNibble : Obligations.KeySkipsReadTheKeyOfTheLowNibble := by
  intro x ign s k hk
  have hkey : keyIndex (s.reg x) = k := Fin.ext hk
  refine ⟨_, _, exec_skp x ign s, exec_sknp x ign s, ?_, ?_, changesOnly_skipIf s _, changesOnly_skipIf s _⟩
  · rw [State.skipIf_pc, hkey]
  · rw [State.skipIf_pc, hkey]
    cases s.key k <;> rfl

/-! ### WAIT-FOR-KEY -/

theorem exec_ldVxK_of_pressed {s : State} (x : Reg) {k : Nat} (h : s.lowestPressedKey = some k) :
    exec (.ldVxK x) s = .next (s.writeNoFlag x (BitVec.ofNat 8 k)) := by
  simp [exec, execLdVxK, h]

theorem exec_ldVxK_of_none {s : State} (x : Reg) (h : s.lowestPressedKey = none) : exec (.ldVxK x) s = .next s := by
  simp [exec, execLdVxK, h]

/-- A state that a cycle leaves as it is stays so for any number of cycles. -/
theorem run_of_step_self {s : State} (h : step s = .next s) (n : Nat) : Host.Core.run Sys2Proof.core n s = .next s := by
  induction n with
  | zero => exact run_zero s
  | succ n ih => rw [run_next h, ih]

/-- Under external coupling a blocked wait is met again: its cycle changes nothing, halted or not (R107). -/
theorem step_of_blocked_wait {s : State} {op : Word} {x : Reg} (hc : s.coupling = .external) (hf : s.fetch = .ok op)
    (hd : decodeWord op = .ok (.ldVxK x)) (hk : s.lowestPressedKey = none) : step s = .next s := by
  cases hs : s.status.halted
  case true => exact step_of_halted hs
  case false =>
    rw [step_of_decode hs hf hd, exec_ldVxK_of_none x hk]
    exact congrArg _ (State.closeCycle_of_external hc)

/-- Settles O44: the least pressed key is written with no flag; with none pressed the state is a fixed point of the
cycle. -/
theorem waitForKeyTakesTheLowestKeyOrBlocks : Obligations.WaitForKeyTakesTheLowestKeyOrBlocks := by
  intro x s
  refine ⟨decodeWord_ldVxK x, fun k hk hlow => ?_, fun hnone => ?_⟩
  · have hkey : s.lowestPressedKey = some k.val := (s.lowestPressedKey_eq_some k).2 ⟨hk, hlow⟩
    refine ⟨_, exec_ldVxK_of_pressed x hkey, ?_, rfl, changesOnly_writeNoFlag s x _⟩
    rw [State.writeNoFlag_reg_self, BitVec.toNat_ofNat]
    omega
  · have hkey : s.lowestPressedKey = none := s.lowestPressedKey_eq_none.2 hnone
    exact ⟨exec_ldVxK_of_none x hkey, fun n hc hf =>
      run_of_step_self (step_of_blocked_wait hc hf (decodeWord_ldVxK x) hkey) n⟩

end Sys2Proof.Machine
end

section
/-! What an instruction can do, said once: it fails, and STATUS takes the record of R257, or it completes, within the frame
of its row. The rules of the whole machine about instructions follow from that (10_state.md, 40_fetch_dispatch.md R104,
60_exceptions.md R250 to R258). -/

namespace Sys2Proof.Machine

/-! ### The instructions that fail -/

/-- The conditions of R252 to R254. -/
def Raises (s : State) (i : Instr) : Prop :=
  ((∃ nnn, i = .call nnn) ∧ s.sp.val = 16) ∨ (i = .ret ∧ s.sp.val = 0) ∨
  ∃ n, indexBytes i = some n ∧ n ≠ 0 ∧ 4095 < s.index.toNat + n - 1

/-- STATUS after the instruction `i` has failed in a state that was not halted (R257). -/
def failureRecord (s : State) (i : Instr) : Status :=
  haltedWith (if i = .ret then .stackUnderflow else if indexBytes i = none then .stackOverflow else .outOfRange)
    s.pc (some (encode i)) (if indexBytes i = none then none else some (max s.index.toNat 4096))

/-- The state after the instruction `i` has failed: the first record is kept (R257, R260). -/
def State.fail (s : State) (i : Instr) : State :=
  if s.status.halted then s else { s with status := failureRecord s i }

theorem State.fail_of_safe {s : State} (h : s.safe) (i : Instr) : s.fail i = { s with status := failureRecord s i } :=
  if_neg (by simp [h])

theorem State.fail_of_halted {s : State} (h : s.status.halted = true) (i : Instr) : s.fail i = s := if_pos h

theorem State.fail_eq (s : State) (i : Instr) : s.fail i = { s with status := (s.fail i).status } := by
  unfold State.fail
  split <;> rfl

theorem State.fail_halted (s : State) (i : Instr) : (s.fail i).status.halted = true := by
  unfold State.fail
  split
  case isTrue h => exact h
  case isFalse => rfl

/-- Raising is failing where the cause, the word and the address are those of the instruction. -/
theorem State.raise_eq_fail {s : State} {i : Instr} {cause : Cause} {addr : Option Nat}
    (h : haltedWith cause s.pc (some (encode i)) addr = failureRecord s i) :
    s.raise cause (some (encode i)) addr = s.fail i := by
  unfold State.raise State.fail
  split
  · rfl
  · exact congrArg s.setStatus h

theorem raiseIndexRange_eq_fail {s : State} {n : Nat} :
    ∀ {i : Instr}, indexBytes i = some n → s.raiseIndexRange i = s.fail i
  | .drw _ _ _, _ => State.raise_eq_fail rfl
  | .ldB _, _ => State.raise_eq_fail rfl
  | .ldMemVx _, _ => State.raise_eq_fail rfl
  | .ldVxMem _, _ => State.raise_eq_fail rfl

theorem State.indexRangeOk_eq_false {s : State} {n : Nat} (hn : n ≠ 0) (h : 4095 < s.index.toNat + n - 1) :
    s.indexRangeOk n = false := by
  rw [← Bool.not_eq_true, s.indexRangeOk_iff, Config.memSize]
  omega

theorem exec_of_raises {s : State} {i : Instr} (h : Raises s i) : exec i s = .next (s.fail i) := by
  rcases h with ⟨⟨nnn, rfl⟩, hsp⟩ | ⟨rfl, hsp⟩ | ⟨n, hi, hn, hrange⟩
  · rw [exec_call_of_sp_full nnn hsp]
    exact congrArg _ (State.raise_eq_fail rfl)
  · rw [exec_ret_of_sp_zero hsp]
    exact congrArg _ (State.raise_eq_fail rfl)
  · rw [exec_of_range_bad hi (State.indexRangeOk_eq_false hn hrange), raiseIndexRange_eq_fail hi]

/-- Settles O39: each of the conditions is one of those that raise, and the record of a raise is the instruction's. -/
theorem failingInstructionsChangeOnlyTheStatus : Obligations.FailingInstructionsChangeOnlyTheStatus := by
  intro s hs
  have hfail : ∀ i, Raises s i → exec i s = .next { s with status := failureRecord s i } := fun i hi => by
    rw [exec_of_raises hi, State.fail_of_safe hs]
  refine ⟨fun nnn hsp => hfail _ (.inl ⟨⟨nnn, rfl⟩, hsp⟩), fun hsp => hfail _ (.inr (.inl ⟨rfl, hsp⟩)),
    fun i n hi hn hrange => ?_⟩
  have hret : i ≠ .ret := by
    rintro rfl
    cases hi
  rw [hfail i (.inr (.inr ⟨n, hi, hn, hrange⟩)), failureRecord, if_neg hret, hi]
  rfl

/-! ### The instructions that complete -/

/-- The parts of the state beside the general registers and PC that an instruction writes. -/
def writtenParts : Instr → List Part
  | .cls | .drw _ _ _ => [.display]
  | .ret | .call _ => [.stack]
  | .ldI _ | .addI _ | .ldF _ => [.index]
  | .rnd _ _ => [.draws]
  | .ldDtVx _ => [.delay]
  | .ldStVx _ => [.sound]
  | .ldB _ | .ldMemVx _ => [.memory]
  | _ => []

/-- The bytes an instruction stores at I, I + 1, ... (R173, R174). -/
def storedBytes (s : State) : Instr → List Byte
  | .ldB x => decimalDigits (s.reg x)
  | .ldMemVx x => s.regBlock x
  | _ => []

/-- What every instruction that completes keeps to: its frame, its PC policy, its stores, and a flag of 0 or 1. -/
structure Completed (i : Instr) (s t : State) : Prop where
  frame : ChangesOnly (fun r => destinations i r ∨ (r = 15 ∧ definesFlag i)) (writtenParts i) s t
  pc : pcPolicy s i t.pc
  mem : t.mem = s.mem.putBytes s.font s.index.toNat (storedBytes s i)
  flag : definesFlag i → t.reg 15 = 0 ∨ t.reg 15 = 1

theorem ChangesOnly.weaken {p q : Reg → Prop} {parts : List Part} {s t : State} (h : ChangesOnly p parts s t)
    (hpq : ∀ r, p r → q r) : ChangesOnly q parts s t :=
  { h with regs_kept := fun r hr => h.regs_kept r fun hp => hr (hpq r hp) }

/-- The skip policy in the words of R104. -/
theorem State.skipIf_policy (s : State) {holds : Bool} {P : Prop} [Decidable P] (h : holds = true ↔ P) :
    (s.skipIf holds).pc.toNat = (if P then s.pc.toNat + 4 else s.pc.toNat + 2) % 65536 := by
  rw [State.toNat_skipIf_pc]
  by_cases hP : P
  · rw [if_pos hP, if_pos (h.2 hP)]
  · rw [if_neg hP, if_neg fun hh => hP (h.1 hh)]

theorem State.indexRangeOk_of_not_raises {s : State} {i : Instr} {n : Nat} (h : ¬ Raises s i)
    (hi : indexBytes i = some n) : s.indexRangeOk n = true := by
  rw [s.indexRangeOk_iff, Config.memSize]
  by_contra hbad
  exact h (.inr (.inr ⟨n, hi, by omega, by omega⟩))

/-- A drawn display, VF as its flag, and the default PC policy (R104, R191). -/
theorem changesOnly_draw (s : State) (d : Display) (b : Byte) :
    ChangesOnly (· = 15) [.display] s (((s.setDisplay d).setReg regVF b).advance) := by
  constructor
  case regs_kept =>
    intro r hr
    rw [State.advance_reg, State.reg_setReg, if_neg (Ne.symm hr), State.setDisplay_reg]
  all_goals simp [State.advance]

theorem exec_drw_of_ok {s : State} (x y : Reg) {n : Nat} (h : s.indexRangeOk n = true) :
    exec (.drw x y n) s =
      .next (((s.setDisplay (s.display.drawSprite (s.reg x) (s.reg y) (s.bytesAtIndex n)).display).setReg regVF
        (flagByte (s.display.drawSprite (s.reg x) (s.reg y) (s.bytesAtIndex n)).collision)).advance) := if_pos h

theorem State.writeWithFlag_flag_zero_or_one (s : State) (x : Reg) (b : Byte) (f : Bool) :
    (s.writeWithFlag x b f).reg 15 = 0 ∨ (s.writeWithFlag x b f).reg 15 = 1 := by
  rw [State.writeWithFlag_reg_flag]
  exact flagByte_zero_or_one f

theorem State.reg_15_draw (s : State) (d : Display) (b : Byte) :
    (((s.setDisplay d).setReg regVF b).advance).reg 15 = b := by
  rw [State.advance_reg, State.reg_setReg, if_pos rfl]

/-- WAIT-FOR-KEY completes by its class: the lowest key and the next PC, or nothing at all (R104, R107). -/
theorem exec_ldVxK_completes (x : Reg) (s : State) : ∃ t, exec (.ldVxK x) s = .next t ∧ Completed (.ldVxK x) s t := by
  cases hk : s.lowestPressedKey with
  | none =>
    have hnone := s.lowestPressedKey_eq_none.1 hk
    refine ⟨s, exec_ldVxK_of_none x hk, by constructor <;> simp, ?_, rfl, False.elim⟩
    exact (if_neg (by simp [hnone])).mpr rfl
  | some k =>
    have hpressed := ((s.lowestPressedKey_eq_some ⟨k, State.lt_of_lowestPressedKey hk⟩).1 hk).1
    refine ⟨_, exec_ldVxK_of_pressed x hk, (changesOnly_writeNoFlag s x _).weaken fun _ => .inl, ?_, rfl, False.elim⟩
    exact (if_pos ⟨_, hpressed⟩).mpr s.toNat_nextPc

/-- A return that does not underflow names the slot it pops. -/
theorem State.exists_slot_below_sp {s : State} (h : s.sp.val ≠ 0) : ∃ k : Fin 16, s.sp.val = k.val + 1 :=
  ⟨⟨s.sp.val - 1, by omega⟩, by simp only; omega⟩

/-- An instruction that does not fail completes. -/
theorem exec_of_not_raises (s : State) :
    ∀ i : Instr, ¬ Raises s i → ∃ t, exec i s = .next t ∧ Completed i s t
  | .cls, _ => ⟨_, exec_cls s, (changesOnly_setDisplay_advance s _).weaken fun _ => False.elim, s.toNat_nextPc, rfl,
      False.elim⟩
  | .ret, h => by
    obtain ⟨k, hk⟩ := State.exists_slot_below_sp fun h0 => h (.inr (.inl ⟨rfl, h0⟩))
    exact ⟨_, exec_ret_of_sp_succ hk, (changesOnly_setSp_setPc s _ _).weaken fun _ => False.elim, ⟨k, hk, rfl⟩, rfl,
      False.elim⟩
  | .jp nnn, _ => ⟨_, exec_jp nnn s, (changesOnly_setPc s _).weaken fun _ => False.elim, toNat_zext16 nnn, rfl,
      False.elim⟩
  | .call nnn, h => by
    obtain ⟨k, hk⟩ := State.exists_slot_of_sp fun h16 => h (.inl ⟨⟨nnn, rfl⟩, h16⟩)
    exact ⟨_, exec_call_of_sp nnn hk, (changesOnly_setSlot_setSp_setPc s k _ _ _).weaken fun _ => False.elim,
      toNat_zext16 nnn, rfl, False.elim⟩
  | .seImm x kk, _ => ⟨_, exec_seImm x kk s, (changesOnly_skipIf s _).weaken fun _ => False.elim,
      s.skipIf_policy beq_iff_eq, rfl, False.elim⟩
  | .sneImm x kk, _ => ⟨_, exec_sneImm x kk s, (changesOnly_skipIf s _).weaken fun _ => False.elim,
      s.skipIf_policy bne_iff_ne, rfl, False.elim⟩
  | .seReg x y ign, _ => ⟨_, exec_seReg x y ign s, (changesOnly_skipIf s _).weaken fun _ => False.elim,
      s.skipIf_policy beq_iff_eq, rfl, False.elim⟩
  | .sneReg x y ign, _ => ⟨_, exec_sneReg x y ign s, (changesOnly_skipIf s _).weaken fun _ => False.elim,
      s.skipIf_policy bne_iff_ne, rfl, False.elim⟩
  | .skp x ign, _ => ⟨_, exec_skp x ign s, (changesOnly_skipIf s _).weaken fun _ => False.elim,
      s.skipIf_policy Iff.rfl, rfl, False.elim⟩
  | .sknp x ign, _ => ⟨_, exec_sknp x ign s, (changesOnly_skipIf s _).weaken fun _ => False.elim,
      s.skipIf_policy (Bool.not_eq_true' _).to_iff, rfl, False.elim⟩
  | .ldImm x kk, _ => ⟨_, exec_ldImm x kk s, (changesOnly_writeNoFlag s x _).weaken fun _ => .inl, s.toNat_nextPc, rfl,
      False.elim⟩
  | .addImm x kk, _ => ⟨_, exec_addImm x kk s, (changesOnly_writeNoFlag s x _).weaken fun _ => .inl, s.toNat_nextPc, rfl,
      False.elim⟩
  | .ldReg x y, _ => ⟨_, exec_ldReg x y s, (changesOnly_writeNoFlag s x _).weaken fun _ => .inl, s.toNat_nextPc, rfl,
      False.elim⟩
  | .orReg x y, _ => ⟨_, exec_orReg x y s, (changesOnly_writeNoFlag s x _).weaken fun _ => .inl, s.toNat_nextPc, rfl,
      False.elim⟩
  | .andReg x y, _ => ⟨_, exec_andReg x y s, (changesOnly_writeNoFlag s x _).weaken fun _ => .inl, s.toNat_nextPc, rfl,
      False.elim⟩
  | .xorReg x y, _ => ⟨_, exec_xorReg x y s, (changesOnly_writeNoFlag s x _).weaken fun _ => .inl, s.toNat_nextPc, rfl,
      False.elim⟩
  | .ldVxDt x, _ => ⟨_, exec_ldVxDt x s, (changesOnly_writeNoFlag s x _).weaken fun _ => .inl, s.toNat_nextPc, rfl,
      False.elim⟩
  | .addReg x y, _ => ⟨_, exec_addReg x y s,
      (changesOnly_writeWithFlag s x _ _).weaken fun _ => .imp_right fun h => ⟨h, trivial⟩, s.toNat_nextPc, rfl,
      fun _ => s.writeWithFlag_flag_zero_or_one x _ _⟩
  | .subReg x y, _ => ⟨_, exec_subReg x y s,
      (changesOnly_writeWithFlag s x _ _).weaken fun _ => .imp_right fun h => ⟨h, trivial⟩, s.toNat_nextPc, rfl,
      fun _ => s.writeWithFlag_flag_zero_or_one x _ _⟩
  | .shr x ign, _ => ⟨_, exec_shr x ign s,
      (changesOnly_writeWithFlag s x _ _).weaken fun _ => .imp_right fun h => ⟨h, trivial⟩, s.toNat_nextPc, rfl,
      fun _ => s.writeWithFlag_flag_zero_or_one x _ _⟩
  | .subnReg x y, _ => ⟨_, exec_subnReg x y s,
      (changesOnly_writeWithFlag s x _ _).weaken fun _ => .imp_right fun h => ⟨h, trivial⟩, s.toNat_nextPc, rfl,
      fun _ => s.writeWithFlag_flag_zero_or_one x _ _⟩
  | .shl x ign, _ => ⟨_, exec_shl x ign s,
      (changesOnly_writeWithFlag s x _ _).weaken fun _ => .imp_right fun h => ⟨h, trivial⟩, s.toNat_nextPc, rfl,
      fun _ => s.writeWithFlag_flag_zero_or_one x _ _⟩
  | .ldI nnn, _ => ⟨_, exec_ldI nnn s, (changesOnly_setIndex_advance s _).weaken fun _ => False.elim, s.toNat_nextPc, rfl,
      False.elim⟩
  | .addI x, _ => ⟨_, exec_addI x s, (changesOnly_setIndex_advance s _).weaken fun _ => False.elim, s.toNat_nextPc, rfl,
      False.elim⟩
  | .ldF x, _ => ⟨_, exec_ldF x s, (changesOnly_setIndex_advance s _).weaken fun _ => False.elim, s.toNat_nextPc, rfl,
      False.elim⟩
  | .jpV0 nnn, _ => ⟨_, exec_jpV0 nnn s, (changesOnly_setPc s _).weaken fun _ => False.elim, s.toNat_indexedTarget nnn, rfl,
      False.elim⟩
  | .rnd x kk, _ => ⟨_, exec_rnd x kk s, (changesOnly_countDraw_writeNoFlag s x _).weaken fun _ => .inl, s.toNat_nextPc,
      rfl, False.elim⟩
  | .drw x y _, h => ⟨_, exec_drw_of_ok x y (State.indexRangeOk_of_not_raises h rfl),
      (changesOnly_draw s _ _).weaken fun _ h15 => .inr ⟨h15, trivial⟩, s.toNat_nextPc, rfl,
      fun _ => by rw [State.reg_15_draw]; exact flagByte_zero_or_one _⟩
  | .ldVxK x, _ => exec_ldVxK_completes x s
  | .ldDtVx x, _ => ⟨_, exec_ldDtVx x s, (changesOnly_setDt_advance s _).weaken fun _ => False.elim, s.toNat_nextPc, rfl,
      False.elim⟩
  | .ldStVx x, _ => ⟨_, exec_ldStVx x s, (changesOnly_setSt_advance s _).weaken fun _ => False.elim, s.toNat_nextPc, rfl,
      False.elim⟩
  | .ldB x, h => ⟨_, exec_ldB_of_ok x (State.indexRangeOk_of_not_raises h rfl),
      (changesOnly_storeAtIndex_advance s _).weaken fun _ => False.elim, s.toNat_nextPc, rfl, False.elim⟩
  | .ldMemVx x, h => ⟨_, exec_ldMemVx_of_ok x (State.indexRangeOk_of_not_raises h rfl),
      (changesOnly_storeAtIndex_advance s _).weaken fun _ => False.elim, s.toNat_nextPc, rfl, False.elim⟩
  | .ldVxMem x, h => ⟨_, exec_ldVxMem_of_ok x (State.indexRangeOk_of_not_raises h rfl),
      (changesOnly_loadBlock_advance s x).weaken fun _ => .inl, s.toNat_nextPc, rfl, False.elim⟩

/-- What an instruction can do: fail, or complete. -/
theorem exec_cases {i : Instr} {s t : State} (h : exec i s = .next t) :
    (Raises s i ∧ t = s.fail i) ∨ (¬ Raises s i ∧ Completed i s t) := by
  by_cases hr : Raises s i
  · rw [exec_of_raises hr] at h
    cases h
    exact .inl ⟨hr, rfl⟩
  · obtain ⟨u, hu, hc⟩ := exec_of_not_raises s i hr
    rw [hu] at h
    cases h
    exact .inr ⟨hr, hc⟩

theorem exists_exec (i : Instr) (s : State) : ∃ t, exec i s = .next t := by
  by_cases hr : Raises s i
  · exact ⟨_, exec_of_raises hr⟩
  · obtain ⟨t, ht, -⟩ := exec_of_not_raises s i hr
    exact ⟨t, ht⟩

end Sys2Proof.Machine
end

section
/-! The rules of the whole machine about one instruction (10_state.md, 20_memory.md R50, 60_exceptions.md R252 to R255):
each is read off the frame of what an instruction can do. -/

namespace Sys2Proof.Machine

/-! ### Which instructions raise -/

/-- Settles O18: an instruction that completes keeps STATUS, so the engine is halted exactly where it raises. -/
theorem onlyTheListedInstructionsRaise : Obligations.OnlyTheListedInstructionsRaise := by
  intro i s t hs hexec
  rcases exec_cases hexec with ⟨hr, rfl⟩ | ⟨hr, hc⟩
  · exact ⟨iff_of_true (s.fail_halted i) hr, fun _ => by rw [State.fail_of_safe hs]; rfl⟩
  · have hrun : ¬ t.status.halted = true := by simp [hc.frame.status_kept, hs]
    exact ⟨iff_of_false hrun hr, fun h => absurd h hrun⟩

/-! ### The registers and the flag -/

/-- Settles O47: the frame names the destinations and, for the six, VF. -/
theorem registersChangeOnlyAsDestinationsOrFlag : Obligations.RegistersChangeOnlyAsDestinationsOrFlag := by
  intro i s t hexec
  rcases exec_cases hexec with ⟨-, rfl⟩ | ⟨-, hc⟩
  · refine ⟨fun r _ _ => by rw [State.fail_eq]; rfl, fun _ _ hrun => ?_⟩
    exact absurd (s.fail_halted i) (by simp [hrun])
  · refine ⟨fun r hd hf => hc.frame.regs_kept r ?_, fun hf _ _ => hc.flag hf⟩
    rintro (h | ⟨h15, hdef⟩)
    · exact hd h
    · exact hf h15 hdef

/-! ### The parts and the instructions that write them -/

theorem stack_mem_writtenParts {i : Instr} (h : Part.stack ∈ writtenParts i) : i = .ret ∨ ∃ nnn, i = .call nnn := by
  unfold writtenParts at h
  split at h <;> simp_all

theorem index_mem_writtenParts {i : Instr} (h : Part.index ∈ writtenParts i) :
    (∃ nnn, i = .ldI nnn) ∨ (∃ x, i = .addI x) ∨ ∃ x, i = .ldF x := by
  unfold writtenParts at h
  split at h <;> simp_all

theorem delay_mem_writtenParts {i : Instr} (h : Part.delay ∈ writtenParts i) : ∃ x, i = .ldDtVx x := by
  unfold writtenParts at h
  split at h <;> simp_all

theorem sound_mem_writtenParts {i : Instr} (h : Part.sound ∈ writtenParts i) : ∃ x, i = .ldStVx x := by
  unfold writtenParts at h
  split at h <;> simp_all

theorem display_mem_writtenParts {i : Instr} (h : Part.display ∈ writtenParts i) :
    i = .cls ∨ ∃ x y n, i = .drw x y n := by
  unfold writtenParts at h
  split at h <;> simp_all

/-- Settles O50: what differs is a part the instruction writes. -/
theorem onlyTheNamedInstructionsWriteIndexAndTimers : Obligations.OnlyTheNamedInstructionsWriteIndexAndTimers := by
  intro i s t hexec
  rcases exec_cases hexec with ⟨-, rfl⟩ | ⟨-, hc⟩
  · rw [State.fail_eq]
    exact ⟨fun h => absurd rfl h, fun h => absurd rfl h, fun h => absurd rfl h⟩
  · exact ⟨fun h => index_mem_writtenParts (not_imp_comm.1 hc.frame.index_kept h),
      fun h => delay_mem_writtenParts (not_imp_comm.1 hc.frame.delay_kept h),
      fun h => sound_mem_writtenParts (not_imp_comm.1 hc.frame.sound_kept h)⟩

/-- Settles O48: the stack is written by RET, which keeps the slots, and by CALL, which writes the slot SP names. -/
theorem onlyCallAndReturnMoveTheStack : Obligations.OnlyCallAndReturnMoveTheStack := by
  intro i s t hexec
  rcases exec_cases hexec with ⟨-, rfl⟩ | ⟨hr, hc⟩
  · rw [State.fail_eq]
    exact ⟨fun h => absurd rfl h, fun k h => absurd rfl h⟩
  by_cases hi : Part.stack ∈ writtenParts i
  · rcases stack_mem_writtenParts hi with rfl | ⟨nnn, rfl⟩
    · obtain ⟨k, hk⟩ := State.exists_slot_below_sp fun h0 => hr (.inr (.inl ⟨rfl, h0⟩))
      rw [exec_ret_of_sp_succ hk] at hexec
      cases hexec
      exact ⟨fun _ => .inr ⟨rfl, hk.symm⟩, fun j h => absurd rfl h⟩
    · obtain ⟨k, hk⟩ := State.exists_slot_of_sp fun h16 => hr (.inl ⟨⟨nnn, rfl⟩, h16⟩)
      rw [exec_call_of_sp nnn hk] at hexec
      cases hexec
      refine ⟨fun _ => .inl ⟨nnn, rfl, by simp [hk]⟩, fun j h => ⟨⟨nnn, rfl⟩, ?_⟩⟩
      by_contra hj
      have hkj : k ≠ j := by
        rintro rfl
        exact hj hk.symm
      exact h (by simp [hkj])
  · obtain ⟨hsp, hslot⟩ := hc.frame.stack_kept hi
    exact ⟨fun h => absurd hsp h, fun k h => absurd (hslot k) h⟩

/-! ### The stores -/

theorem storedBytes_cases (s : State) (i : Instr) :
    storedBytes s i = [] ∨ (∃ x, i = .ldB x ∧ (storedBytes s i).length = 3) ∨
    ∃ x : Reg, i = .ldMemVx x ∧ (storedBytes s i).length = x.val + 1 := by
  unfold storedBytes
  split
  case h_1 x => exact .inr (.inl ⟨x, rfl, rfl⟩)
  case h_2 x => exact .inr (.inr ⟨x, rfl, s.length_regBlock x⟩)
  case h_3 => exact .inl rfl

/-- A completing store stays inside memory (R50, R176). -/
theorem storedBytes_inRange {s : State} {i : Instr} (h : ¬ Raises s i) :
    storedBytes s i = [] ∨ s.index.toNat + (storedBytes s i).length ≤ Config.memSize := by
  rcases storedBytes_cases s i with hnil | ⟨x, rfl, hlen⟩ | ⟨x, rfl, hlen⟩
  · exact .inl hnil
  · have hok := (s.indexRangeOk_iff _).1 (State.indexRangeOk_of_not_raises h (n := 3) rfl)
    right
    omega
  · have hok := (s.indexRangeOk_iff _).1 (State.indexRangeOk_of_not_raises h (n := x.val + 1) rfl)
    right
    omega

theorem Completed.byteAt {i : Instr} {s t : State} (h : Completed i s t) (a : Nat) :
    t.byteAt a = (s.storeAtIndex (storedBytes s i)).byteAt a := by
  rw [State.byteAt, h.mem, h.frame.font_kept]
  rfl

/-- Settles O49: a byte that differs is one of the stored ones. -/
theorem onlyBcdAndDumpStore : Obligations.OnlyBcdAndDumpStore := by
  intro i s t a hexec hne
  rcases exec_cases hexec with ⟨-, rfl⟩ | ⟨hr, hc⟩
  · rw [State.fail_eq] at hne
    exact absurd rfl hne
  rw [hc.byteAt] at hne
  have ha : ¬ (a < s.index.toNat ∨ s.index.toNat + (storedBytes s i).length ≤ a) :=
    fun h => hne (s.storeAtIndex_byteAt_outside _ a h)
  have hrange := storedBytes_inRange hr
  rw [← List.length_eq_zero_iff, Config.memSize] at hrange
  refine ⟨by omega, by omega, ?_⟩
  rcases storedBytes_cases s i with hnil | ⟨x, rfl, hlen⟩ | ⟨x, rfl, hlen⟩
  · rw [hnil, List.length_nil] at ha
    omega
  · exact .inl ⟨x, rfl, by omega⟩
  · exact .inr ⟨x, rfl, by omega⟩

end Sys2Proof.Machine
end

section
/-! What a cycle can do, said once: an engine that is not halted runs the body of the cycle and closes it, with a tick under
per-cycle coupling (40_fetch_dispatch.md R100 to R108, 46_timers.md R214). -/

namespace Sys2Proof.Machine

/-! ### The end of a cycle -/

@[simp] theorem State.closeCycle_pc (s : State) : s.closeCycle.pc = s.pc := by rw [State.closeCycle_timers]
@[simp] theorem State.closeCycle_mem (s : State) : s.closeCycle.mem = s.mem := by rw [State.closeCycle_timers]
@[simp] theorem State.closeCycle_display (s : State) : s.closeCycle.display = s.display := by rw [State.closeCycle_timers]
@[simp] theorem State.closeCycle_keys (s : State) : s.closeCycle.keys = s.keys := by rw [State.closeCycle_timers]
@[simp] theorem State.closeCycle_reports (s : State) : s.closeCycle.reports = s.reports := by rw [State.closeCycle_timers]
@[simp] theorem State.closeCycle_font (s : State) : s.closeCycle.font = s.font := by rw [State.closeCycle_timers]

/-- The tick that ends a cycle does not look at STATUS (R214, R258). -/
theorem State.closeCycle_status_update (s : State) (q : Status) :
    { s with status := q }.closeCycle = { (if s.coupling = .perCycle then s.tick else s) with status := q } := by
  rw [State.closeCycle_eq]
  split <;> rfl

/-! ### The body of a cycle -/

/-- The cycle of an engine that is not halted, before it closes: fetch, decode and handler (R102 to R106). -/
def State.cycleBody (s : State) : Result :=
  match s.fetch with
  | .error a => .next (s.raiseNoWord a)
  | .ok op => s.dispatchWord op

theorem step_of_safe {s : State} (h : s.safe) : step s = closeResult s.cycleBody := by
  simp only [step, runCycle, State.cycleBody, h, Bool.false_eq_true, if_false]
  cases s.fetch <;> rfl

theorem State.cycleBody_of_fetch_error {s : State} {a : Nat} (hf : s.fetch = .error a) :
    s.cycleBody = .next (s.raiseNoWord a) := by
  simp [State.cycleBody, hf]

theorem State.cycleBody_of_decode {s : State} {op : Word} {i : Instr} (hf : s.fetch = .ok op)
    (hd : decodeWord op = .ok i) : s.cycleBody = exec i s := by
  simp [State.cycleBody, State.dispatchWord, hf, hd]

theorem State.cycleBody_of_invalid {s : State} {op : Word} {r : Reject} (hf : s.fetch = .ok op)
    (hd : decodeWord op = .error r) : s.cycleBody = .next (s.invalidOpcode op) := by
  simp [State.cycleBody, State.dispatchWord, hf, hd]

/-- The three ways a cycle's body can go: a failed fetch, an instruction, an invalid word. -/
theorem State.fetch_cases (s : State) :
    (∃ a, s.fetch = .error a) ∨ (∃ op i, s.fetch = .ok op ∧ decodeWord op = .ok i) ∨
    ∃ op r, s.fetch = .ok op ∧ decodeWord op = .error r := by
  cases hf : s.fetch with
  | error a => exact .inl ⟨a, rfl⟩
  | ok op =>
    cases hd : decodeWord op with
    | ok i => exact .inr (.inl ⟨op, i, rfl, hd⟩)
    | error r => exact .inr (.inr ⟨op, r, rfl, hd⟩)

theorem State.exists_cycleBody (s : State) : ∃ t, s.cycleBody = .next t := by
  rcases s.fetch_cases with ⟨a, hf⟩ | ⟨op, i, hf, hd⟩ | ⟨op, r, hf, hd⟩
  · exact ⟨_, State.cycleBody_of_fetch_error hf⟩
  · rw [State.cycleBody_of_decode hf hd]
    exact exists_exec i s
  · exact ⟨_, State.cycleBody_of_invalid hf hd⟩

/-- What the body of a cycle does to a state that is not halted. -/
inductive CycleEffect (s : State) : State → Prop where
  | fetchFailed (a : Nat) (hf : s.fetch = .error a) :
      CycleEffect s { s with status := haltedWith .outOfRange s.pc none (some a) }
  | invalid (op : Word) (r : Reject) (hf : s.fetch = .ok op) (hd : decodeWord op = .error r) :
      CycleEffect s (s.invalidOpcode op)
  | failed (op : Word) (i : Instr) (hf : s.fetch = .ok op) (hd : decodeWord op = .ok i) (hr : Raises s i) :
      CycleEffect s { s with status := failureRecord s i }
  | completed (op : Word) (i : Instr) (t : State) (hf : s.fetch = .ok op) (hd : decodeWord op = .ok i)
      (hr : ¬ Raises s i) (hc : Completed i s t) : CycleEffect s t

theorem cycleEffect_of_cycleBody {s t : State} (hs : s.safe) (h : s.cycleBody = .next t) : CycleEffect s t := by
  rcases s.fetch_cases with ⟨a, hf⟩ | ⟨op, i, hf, hd⟩ | ⟨op, r, hf, hd⟩
  · rw [State.cycleBody_of_fetch_error hf, State.raiseNoWord, State.raise_eq, hs] at h
    cases h
    exact .fetchFailed a hf
  · rw [State.cycleBody_of_decode hf hd] at h
    rcases exec_cases h with ⟨hr, rfl⟩ | ⟨hr, hc⟩
    · rw [State.fail_of_safe hs]
      exact .failed op i hf hd hr
    · exact .completed op i t hf hd hr hc
  · rw [State.cycleBody_of_invalid hf hd] at h
    cases h
    exact .invalid op r hf hd

/-- A cycle is the halted no-op, or its body's effect and its end (R101, R108). -/
theorem cycle_cases {s t : State} (h : step s = .next t) :
    (s.status.halted = true ∧ t = s) ∨ (s.safe ∧ ∃ u, CycleEffect s u ∧ t = u.closeCycle) := by
  cases hs : s.status.halted
  case true =>
    rw [step_of_halted hs] at h
    cases h
    exact .inl ⟨rfl, rfl⟩
  case false =>
    obtain ⟨u, hu⟩ := s.exists_cycleBody
    rw [step_of_safe hs, hu] at h
    cases h
    exact .inr ⟨hs, u, cycleEffect_of_cycleBody hs hu, rfl⟩

theorem exists_step (s : State) : ∃ t, step s = .next t := by
  cases hs : s.status.halted
  case true => exact ⟨s, step_of_halted hs⟩
  case false =>
    obtain ⟨u, hu⟩ := s.exists_cycleBody
    exact ⟨u.closeCycle, by rw [step_of_safe hs, hu]; rfl⟩

/-- Settles O12: every instruction fails or completes, and so does the body of every cycle. -/
theorem everyCycleAnswersANextState : Obligations.EveryCycleAnswersANextState := ⟨exists_step, exists_exec⟩

/-! ### What a cycle never writes -/

theorem CycleEffect.font {s t : State} (h : CycleEffect s t) : t.font = s.font := by
  cases h with
  | completed _ _ _ _ _ _ hc => exact hc.frame.font_kept
  | _ => rfl

theorem CycleEffect.coupling {s t : State} (h : CycleEffect s t) : t.coupling = s.coupling := by
  cases h with
  | completed _ _ _ _ _ _ hc => exact hc.frame.coupling_kept
  | _ => rfl

theorem CycleEffect.keys {s t : State} (h : CycleEffect s t) : t.keys = s.keys := by
  cases h with
  | completed _ _ _ _ _ _ hc => exact Vector.ext fun k hk => hc.frame.keys_kept ⟨k, hk⟩
  | _ => rfl

/-! ### The instruction of a cycle -/

theorem exec_coupling {i : Instr} {s t : State} (h : exec i s = .next t) : t.coupling = s.coupling := by
  rcases exec_cases h with ⟨-, rfl⟩ | ⟨-, hc⟩
  · rw [State.fail_eq]
  · exact hc.frame.coupling_kept

theorem State.fetch_of_read {s : State} {high low : Byte} (hh : s.mem.read s.font s.pc.toNat = some high)
    (hl : s.mem.read s.font (s.pc.toNat + 1) = some low) : s.fetch = .ok (wordOfBytes high low) := by
  simp [State.fetch, hh, hl]

theorem decodeWord_of_decodeBytes {high low : Byte} {rest : List Byte} {i : Instr}
    (h : decodeBytes (high :: low :: rest) = .ok (i, rest)) : decodeWord (wordOfBytes high low) = .ok i := by
  cases hd : decodeWord (wordOfBytes high low) with
  | ok j =>
    rw [decodeBytes_of_decodeWord hd] at h
    cases h
    rfl
  | error r => simp [decodeBytes, hd] at h

/-- Settles O11: the bytes are the fetched word, and the end of the cycle is the tick. -/
theorem stepRunsTheDecodedInstruction : Obligations.StepRunsTheDecodedInstruction := by
  intro s i high low rest hs hh hl hd
  obtain ⟨t, ht⟩ := exists_exec i s
  refine ⟨t, ht, ?_⟩
  rw [step_of_decode hs (State.fetch_of_read hh hl) (decodeWord_of_decodeBytes hd), ht, closeResult, State.closeCycle_eq,
    exec_coupling ht]

/-- Settles O13: a halted state is a fixed point of the cycle. -/
theorem haltedEngineChangesNothing : Obligations.HaltedEngineChangesNothing :=
  fun _ n h => run_of_step_self (step_of_halted h) n

theorem decodeWord_eq_error {op : Word} (h : ∀ i, decodeWord op ≠ .ok i) : ∃ r, decodeWord op = .error r := by
  cases hd : decodeWord op with
  | ok i => exact absurd hd (h i)
  | error r => exact ⟨r, rfl⟩

/-- Settles O16: the report and the next PC are the whole effect, and under external coupling no tick follows. -/
theorem invalidOpcodeIsReportedAndSkipped : Obligations.InvalidOpcodeIsReportedAndSkipped := by
  intro s op hs hc hf hd
  obtain ⟨r, hr⟩ := decodeWord_eq_error hd
  refine ⟨s.invalidOpcode op, ?_, rfl, rfl, rfl⟩
  rw [step_of_invalid hs hf hr, State.closeCycle_of_external]
  exact hc

/-- Settles O20: the jump to itself writes the PC that is there, and a tick changes neither fetch nor PC. -/
theorem finishedGuestStaysFinished : Obligations.FinishedGuestStaysFinished := by
  rintro s ⟨hs, nnn, hf, hpc⟩
  have hjump : exec (.jp nnn) s = .next s := by rw [exec_jp, ← hpc]; rfl
  refine ⟨s.closeCycle, ?_, s.closeCycle_eq, ?_, nnn, ?_, ?_⟩
  · rw [step_of_decode hs hf (decodeWord_jp nnn), hjump, closeResult]
  · rwa [State.safe, State.closeCycle_status]
  · rw [State.closeCycle_timers]
    exact hf
  · rwa [State.closeCycle_pc]

/-! ### The PC policy -/

/-- Settles O15: an instruction that goes on completes by its class; the invalid word and the failed fetch are cycles of
their own. -/
theorem pcAdvancesByTheClassOfTheInstruction : Obligations.PcAdvancesByTheClassOfTheInstruction := by
  refine ⟨fun i s t hs hexec => ?_, fun s t op hs hf hd hstep => ?_, fun s t a hs hf hstep => ?_⟩
  · rcases exec_cases hexec with ⟨-, rfl⟩ | ⟨-, hc⟩
    · exact ⟨fun hrun => absurd (s.fail_halted i) (by simp [hrun]), fun _ => by rw [State.fail_eq]⟩
    · exact ⟨fun _ => hc.pc, fun hh => absurd hh (by simp [hc.frame.status_kept, hs])⟩
  · obtain ⟨r, hr⟩ := decodeWord_eq_error hd
    rw [step_of_invalid hs hf hr] at hstep
    cases hstep
    rw [State.closeCycle_pc]
    exact s.toNat_nextPc
  · rw [step_of_fetch_error hs hf] at hstep
    cases hstep
    rw [State.closeCycle_pc]

/-! ### A cycle that fails -/

/-- Settles O17: of the four effects two halt the engine, a failed fetch and a failing instruction. -/
theorem fatalConditionsChangeOnlyTheStatus : Obligations.FatalConditionsChangeOnlyTheStatus := by
  intro s t hs hstep hhalted
  rcases cycle_cases hstep with ⟨hh, -⟩ | ⟨-, u, hu, rfl⟩
  · exact absurd hh (by simp [hs])
  rw [State.closeCycle_status] at hhalted
  cases hu with
  | fetchFailed a hf =>
    rw [State.closeCycle_status_update]
    exact ⟨rfl, rfl, fun _ => hf, nofun⟩
  | failed op i hf hd hr =>
    rw [State.closeCycle_status_update]
    refine ⟨rfl, rfl, ?_, ?_⟩
    · rintro ⟨⟩
    · rintro _ ⟨⟩
      rwa [encode_of_decodeWord hd]
  | invalid op r hf hd => exact absurd hhalted (by simp [State.invalidOpcode_eq, hs])
  | completed op i _ hf hd hr hc => exact absurd hhalted (by simp [hc.frame.status_kept, hs])

end Sys2Proof.Machine
end

section
/-! The reset state and the machine's invariant (10_state.md R37, R38): it holds after reset, and every cycle keeps it. -/

namespace Sys2Proof.Machine

/-! ### The reset state -/

/-- Settles O6: each piece of the reset state is read off; memory lists nothing, so it reads as the font and zeros. -/
theorem resetLeavesTheTableOfValues : Obligations.ResetLeavesTheTableOfValues := by
  intro font coupling s
  have hmem : ∀ a, s.byteAt a = resetByte font a := State.byteAt_of_mem_nil rfl
  refine ⟨fun r => Vector.getElem_replicate _, rfl, rfl, rfl, fun k => Vector.getElem_replicate _, rfl, rfl, fun a ha => ?_,
    fun a ha => ?_, Display.pixel_blank, fun k => Vector.getElem_replicate _, rfl, rfl⟩
  · rw [hmem, resetByte_of_lt font ha]
  · rw [hmem, resetByte_of_ge font ha]

theorem Status.wf_clear : Status.clear.wf := by decide

/-- Settles O7: nothing listed, nothing recorded, nothing reported. -/
theorem invariantHoldsAfterReset : Obligations.InvariantHoldsAfterReset :=
  fun _ _ => ⟨Memory.wf_nil, Status.wf_clear, by simp [State.resetWith]⟩

/-! ### STATUS and the reports as their rules say -/

theorem Status.wf_outOfRange {pc : Word} {op : Option Word} {a : Nat} (h : Config.memSize ≤ a) :
    (haltedWith .outOfRange pc op (some a)).wf := by
  simp [Status.wf, haltedWith, h]

theorem failureRecord_wf {s : State} {i : Instr} (h : Raises s i) : (failureRecord s i).wf := by
  rcases h with ⟨⟨nnn, rfl⟩, -⟩ | ⟨rfl, -⟩ | ⟨n, hi, -⟩
  · simp [Status.wf, failureRecord, haltedWith, indexBytes, encode]
  · simp [Status.wf, failureRecord, haltedWith, indexBytes, encode]
  · have hret : i ≠ .ret := by
      rintro rfl
      cases hi
    have hn : indexBytes i ≠ none := by simp [hi]
    rw [failureRecord, if_neg hret, if_neg hn, if_neg hn]
    exact Status.wf_outOfRange (Nat.le_max_right _ _)

theorem decodeWord_error_eq {op : Word} {r : Reject} (h : decodeWord op = .error r) : r = .invalidOpcode op := by
  unfold decodeWord decodeFamily0 decodeFamily8 decodeFamilyE decodeFamilyF at h
  split at h
  case h_1 => split at h <;> cases h; rfl
  case h_9 => split at h <;> cases h; rfl
  case h_15 => split at h <;> cases h; rfl
  case h_16 => split at h <;> cases h; rfl
  all_goals cases h
  rfl

theorem Report.wf_of_fetch {s : State} {op : Word} {r : Reject} (hf : s.fetch = .ok op)
    (hd : decodeWord op = .error r) : Report.wf { op := op, pc := s.pc } :=
  ⟨by rw [hd, decodeWord_error_eq hd], State.lt_of_fetch_ok hf⟩

theorem State.memSize_le_of_fetch_error {s : State} {a : Nat} (h : s.fetch = .error a) : Config.memSize ≤ a := by
  by_cases hpc : s.pc.toNat + 1 < Config.memSize
  · rw [s.fetch_of_lt hpc] at h
    cases h
  · rw [s.fetch_of_ge hpc] at h
    cases h
    exact Nat.le_max_right _ _

/-! ### The steps of the invariant -/

theorem Completed.mem_wf {i : Instr} {s t : State} (hr : ¬ Raises s i) (hc : Completed i s t) (h : s.mem.wf s.font) :
    t.mem.wf s.font := by
  rw [hc.mem]
  rcases storedBytes_inRange hr with hnil | hrange
  · rw [hnil]
    exact h
  · exact Memory.wf_putBytes _ h hrange

theorem CycleEffect.inv {s t : State} (h : CycleEffect s t) (hs : s.Inv) : t.Inv := by
  obtain ⟨hmem, hstatus, hreports⟩ := hs
  cases h with
  | fetchFailed a hf => exact ⟨hmem, Status.wf_outOfRange (State.memSize_le_of_fetch_error hf), hreports⟩
  | failed op i hf hd hr => exact ⟨hmem, failureRecord_wf hr, hreports⟩
  | invalid op r hf hd =>
    refine ⟨hmem, hstatus, fun q hq => ?_⟩
    rcases List.mem_append.1 hq with hq | hq
    · exact hreports q hq
    · rw [List.mem_singleton.1 hq]
      exact Report.wf_of_fetch hf hd
  | completed op i t hf hd hr hc =>
    rw [State.Inv, hc.frame.font_kept, hc.frame.status_kept, hc.frame.reports_kept]
    exact ⟨hc.mem_wf hr hmem, hstatus, hreports⟩

/-- The tick that ends a cycle touches nothing the invariant speaks of. -/
theorem State.closeCycle_inv {s : State} (h : s.Inv) : s.closeCycle.Inv := by
  rwa [State.Inv, State.closeCycle_mem, State.closeCycle_font, State.closeCycle_status, State.closeCycle_reports]

/-- Settles O8: each of the effects of a cycle keeps the invariant, and so does the cycle's end. -/
theorem everyCycleKeepsTheInvariant : Obligations.EveryCycleKeepsTheInvariant := by
  intro s t hs hstep
  rcases cycle_cases hstep with ⟨-, rfl⟩ | ⟨-, u, hu, rfl⟩
  · exact hs
  · exact State.closeCycle_inv (hu.inv hs)

/-! ### Canonical memories -/

/-- A listed cell of a canonical memory is what its address reads as. -/
theorem Memory.byteAt_of_mem {f : Config.Font} {m : Memory} (h : m.wf f) {c : Host.Cell} (hc : c ∈ m) :
    m.byteAt f c.1 = c.2 := by
  obtain ⟨hsorted, hcells⟩ := h
  induction m with
  | nil => cases hc
  | cons p m ih =>
    rw [List.pairwise_cons] at hsorted
    rcases List.mem_cons.1 hc with rfl | hc
    · simp [Memory.byteAt]
    · have hne : c.1 ≠ p.1 := Nat.ne_of_gt (hsorted.1 c hc)
      simp only [Memory.byteAt, hne, if_false]
      exact ih hc hsorted.2 fun q hq => hcells q (List.mem_cons_of_mem _ hq)

/-- An address that does not read as reset left it is listed, with its byte. -/
theorem Memory.mem_of_byteAt_ne {f : Config.Font} {m : Memory} {a : Nat} (h : m.byteAt f a ≠ resetByte f a) :
    (a, m.byteAt f a) ∈ m := by
  induction m with
  | nil => exact absurd rfl h
  | cons p m ih =>
    simp only [Memory.byteAt] at h ⊢
    split at h
    case isTrue hap => simp [hap]
    case isFalse hap =>
      rw [if_neg hap]
      exact List.mem_cons_of_mem _ (ih h)

/-- The cells of a canonical memory are the addresses that do not read as reset left them. -/
theorem Memory.mem_iff {f : Config.Font} {m : Memory} (h : m.wf f) (c : Host.Cell) :
    c ∈ m ↔ c.1 < Config.memSize ∧ m.byteAt f c.1 = c.2 ∧ c.2 ≠ resetByte f c.1 := by
  constructor
  · intro hc
    obtain ⟨hlt, hne⟩ := h.2 c hc
    exact ⟨hlt, Memory.byteAt_of_mem h hc, hne⟩
  · rintro ⟨-, hbyte, hne⟩
    rw [← hbyte] at hne
    have hmem := Memory.mem_of_byteAt_ne hne
    rwa [hbyte] at hmem

/-- Settles O10: both memories list the same cells, and each in rising order of address. -/
theorem memoriesThatReadAlikeAreEqual : Obligations.MemoriesThatReadAlikeAreEqual := by
  intro f m m' hm hm' halike
  have hsame : ∀ c, c ∈ m ↔ c ∈ m' := fun c => by
    rw [Memory.mem_iff hm, Memory.mem_iff hm']
    exact and_congr_right fun hlt => by rw [halike c.1 hlt]
  have hnodup : ∀ {l : Memory}, l.wf f → l.Nodup := fun hl =>
    hl.1.imp fun hlt heq => Nat.ne_of_lt hlt (congrArg Prod.fst heq)
  have hperm : m.Perm m' := (List.perm_ext_iff_of_nodup (hnodup hm) (hnodup hm')).2 hsame
  exact hperm.eq_of_pairwise (fun p q _ _ hpq hqp => absurd hpq (Nat.lt_asymm hqp)) hm.1 hm'.1

end Sys2Proof.Machine
end

section
/-! Two fields that no instruction reads: ST, which the guest can only write, and the coupling, which only the end of a
cycle looks at (10_state.md R27, 46_timers.md R214). -/

namespace Sys2Proof.Machine

/-- The state with the two fields replaced. -/
def State.withUnread (s : State) (b : Byte) (c : Config.TimerCoupling) : State := { s with st := b, coupling := c }

/-- A failure reads neither field. -/
theorem State.fail_withUnread (s : State) (i : Instr) (b : Byte) (c : Config.TimerCoupling) :
    (s.withUnread b c).fail i = (s.fail i).withUnread b c := by
  cases hs : s.status.halted
  case true => rw [State.fail_of_halted hs, State.fail_of_halted (s := s.withUnread b c) hs]
  case false =>
    rw [State.fail_of_safe hs, State.fail_of_safe (s := s.withUnread b c) hs]
    rfl

/-- An instruction reads neither field: it does the same whatever they hold, and ST ends as it was or as written. -/
theorem exec_withUnread {i : Instr} {s t : State} (h : exec i s = .next t) (b : Byte) (c : Config.TimerCoupling) :
    ∃ b', exec i (s.withUnread b c) = .next (t.withUnread b' c) ∧ (b = s.st → b' = t.st) := by
  by_cases hr : Raises s i
  · rw [exec_of_raises hr] at h
    cases h
    refine ⟨b, (exec_of_raises (s := s.withUnread b c) hr).trans (congrArg _ (s.fail_withUnread i b c)), ?_⟩
    rw [State.fail_eq]
    exact id
  · have hok : ∀ {n}, indexBytes i = some n → s.indexRangeOk n = true := State.indexRangeOk_of_not_raises hr
    cases i with
    | ret =>
      obtain ⟨k, hk⟩ := State.exists_slot_below_sp fun h0 => hr (.inr (.inl ⟨rfl, h0⟩))
      rw [exec_ret_of_sp_succ hk] at h
      cases h
      exact ⟨b, exec_ret_of_sp_succ (s := s.withUnread b c) hk, id⟩
    | call nnn =>
      obtain ⟨k, hk⟩ := State.exists_slot_of_sp fun h16 => hr (.inl ⟨⟨nnn, rfl⟩, h16⟩)
      rw [exec_call_of_sp nnn hk] at h
      cases h
      exact ⟨b, exec_call_of_sp (s := s.withUnread b c) nnn hk, id⟩
    | drw x y n =>
      rw [exec_drw_of_ok x y (hok rfl)] at h
      cases h
      exact ⟨b, exec_drw_of_ok (s := s.withUnread b c) x y (hok rfl), id⟩
    | ldB x =>
      rw [exec_ldB_of_ok x (hok rfl)] at h
      cases h
      exact ⟨b, exec_ldB_of_ok (s := s.withUnread b c) x (hok rfl), id⟩
    | ldMemVx x =>
      rw [exec_ldMemVx_of_ok x (hok rfl)] at h
      cases h
      exact ⟨b, exec_ldMemVx_of_ok (s := s.withUnread b c) x (hok rfl), id⟩
    | ldVxMem x =>
      rw [exec_ldVxMem_of_ok x (hok rfl)] at h
      cases h
      exact ⟨b, exec_ldVxMem_of_ok (s := s.withUnread b c) x (hok rfl), id⟩
    | ldVxK x =>
      cases hk : s.lowestPressedKey with
      | none =>
        rw [exec_ldVxK_of_none x hk] at h
        cases h
        exact ⟨b, exec_ldVxK_of_none (s := s.withUnread b c) x hk, id⟩
      | some k =>
        rw [exec_ldVxK_of_pressed x hk] at h
        cases h
        exact ⟨b, exec_ldVxK_of_pressed (s := s.withUnread b c) x hk, id⟩
    | ldStVx x =>
      cases h
      exact ⟨_, rfl, fun _ => rfl⟩
    | _ =>
      cases h
      exact ⟨b, rfl, id⟩

/-- So does the body of a cycle. -/
theorem cycleBody_withUnread {s t : State} (hs : s.safe) (h : s.cycleBody = .next t) (b : Byte)
    (c : Config.TimerCoupling) :
    ∃ b', (s.withUnread b c).cycleBody = .next (t.withUnread b' c) ∧ (b = s.st → b' = t.st) := by
  rcases s.fetch_cases with ⟨a, hf⟩ | ⟨op, i, hf, hd⟩ | ⟨op, r, hf, hd⟩
  · rw [State.cycleBody_of_fetch_error hf, State.raiseNoWord, State.raise_eq, hs] at h
    cases h
    refine ⟨b, ?_, id⟩
    rw [State.cycleBody_of_fetch_error (s := s.withUnread b c) hf, State.raiseNoWord, State.raise_eq]
    simp [State.withUnread, hs]
  · rw [State.cycleBody_of_decode hf hd] at h
    rw [State.cycleBody_of_decode (s := s.withUnread b c) hf hd]
    exact exec_withUnread h b c
  · rw [State.cycleBody_of_invalid hf hd] at h
    cases h
    exact ⟨b, State.cycleBody_of_invalid (s := s.withUnread b c) hf hd, id⟩

/-- Settles O19: the body of the cycle is the same under both couplings, and the per-cycle one ends with a tick. -/
theorem perCycleIsExternalThenOneTick : Obligations.PerCycleIsExternalThenOneTick := by
  intro s hc
  cases hs : s.status.halted
  case true => exact ⟨s, step_of_halted hs, hc, step_of_halted hs⟩
  case false =>
    obtain ⟨u, hu⟩ := s.exists_cycleBody
    obtain ⟨b', hu', hst⟩ := cycleBody_withUnread hs hu s.st .perCycle
    have huc : u.coupling = .external := (cycleEffect_of_cycleBody hs hu).coupling.trans hc
    refine ⟨u, ?_, huc, ?_⟩
    · rw [step_of_safe hs, hu, closeResult, State.closeCycle_of_external huc]
    · rw [hst rfl] at hu'
      exact (step_of_safe (s := s.withUnread s.st .perCycle) hs).trans (congrArg closeResult hu')

theorem setSt_closeCycle (s : State) (b : Byte) : ∃ b', (s.setSt b).closeCycle = s.closeCycle.setSt b' := by
  rw [State.closeCycle_eq, State.closeCycle_eq]
  by_cases hc : s.coupling = .perCycle
  · exact ⟨countDown b, by simp only [State.setSt_coupling, hc, if_true]; rfl⟩
  · exact ⟨b, by simp only [State.setSt_coupling, hc, if_false]⟩

/-- A cycle from states that differ in ST alone ends in states that differ in ST alone. -/
theorem step_setSt (s : State) (b : Byte) :
    ∃ t b', step s = .next t ∧ step (s.setSt b) = .next (t.setSt b') := by
  cases hs : s.status.halted
  case true => exact ⟨s, b, step_of_halted hs, step_of_halted hs⟩
  case false =>
    obtain ⟨u, hu⟩ := s.exists_cycleBody
    obtain ⟨b', hu', -⟩ := cycleBody_withUnread hs hu b s.coupling
    have hsame : u.withUnread b' s.coupling = u.setSt b' := by
      rw [← (cycleEffect_of_cycleBody hs hu).coupling]
      rfl
    obtain ⟨b'', hclose⟩ := setSt_closeCycle u b'
    refine ⟨u.closeCycle, b'', by rw [step_of_safe hs, hu, closeResult], ?_⟩
    rw [hsame] at hu'
    rw [step_of_safe (s := s.setSt b) hs, show (s.setSt b).cycleBody = _ from hu', closeResult, hclose]

/-- Settles O54: by induction on the number of cycles, from any two states that differ in ST alone. -/
theorem guestCannotReadTheSoundTimer : Obligations.GuestCannotReadTheSoundTimer := by
  intro n
  induction n with
  | zero => exact fun s b => ⟨s, b, run_zero s, run_zero _⟩
  | succ n ih =>
    intro s b
    obtain ⟨t, b', hstep, hstep'⟩ := step_setSt s b
    obtain ⟨v, b'', hrun, hrun'⟩ := ih t b'
    exact ⟨v, b'', by rw [run_next hstep, hrun], by rw [run_next hstep', hrun']⟩

end Sys2Proof.Machine
end

section
/-! The host's operations (47_host_interface.md R220 to R234): what an operation other than Reset and RunCycle can do, said
once, and the operations that write one piece of the state. -/

namespace Sys2Proof.Machine

/-! ### The host's accesses to memory -/

theorem State.raiseNoWord_of_safe {s : State} (h : s.safe) (a : Nat) :
    s.raiseNoWord a = { s with status := haltedWith .outOfRange s.pc none (some a) } := by
  rw [State.raiseNoWord, State.raise_eq, h]
  rfl

theorem State.hostLoad_of_lt (s : State) {a : Nat} (h : a < Config.memSize) :
    s.hostLoad a = (s, .number (s.byteAt a).toNat) := by
  simp [State.hostLoad, Memory.read, inRange, h, State.byteAt]

theorem State.hostLoad_of_ge (s : State) {a : Nat} (h : Config.memSize ≤ a) :
    s.hostLoad a = (s.raiseNoWord a, .outOfRange) := by
  simp [State.hostLoad, Memory.read, inRange, Nat.not_lt.2 h]

theorem State.hostStore_of_lt (s : State) {a : Nat} (h : a < Config.memSize) (b : Byte) :
    s.hostStore a b.toNat = (s.setMem (s.mem.put s.font a b), .done) := by
  simp [State.hostStore, Memory.write, inRange, h, b.isLt]

theorem State.hostStore_of_ge (s : State) {a : Nat} (h : Config.memSize ≤ a) (b : Byte) :
    s.hostStore a b.toNat = (s.raiseNoWord a, .outOfRange) := by
  simp [State.hostStore, Memory.write, inRange, Nat.not_lt.2 h, b.isLt]

theorem State.hostStore_of_wide (s : State) (a : Nat) {v : Nat} (h : ¬ v < 256) : s.hostStore a v = (s, .refused) := by
  simp [State.hostStore, h]

theorem State.loadImage_of_fits (s : State) {bytes : List Byte} (h : bytes.length ≤ Config.maxImage) :
    s.loadImage bytes = (s.setMem (s.mem.putBytes s.font Config.progBase bytes), .done) := if_pos h

theorem State.loadImage_of_long (s : State) {bytes : List Byte} (h : ¬ bytes.length ≤ Config.maxImage) :
    s.loadImage bytes = (s.raiseNoWord Config.memSize, .outOfRange) := if_neg h

/-- A byte value is the number of a byte. -/
theorem exists_toNat_eq {w v : Nat} (h : v < 2 ^ w) : ∃ b : BitVec w, b.toNat = v :=
  ⟨BitVec.ofNatLT v h, BitVec.toNat_ofNatLT v h⟩

/-- Settles O57: inside memory the accesses are the read and the write of one cell, outside they raise. -/
theorem hostMemoryAccessIsRangeChecked : Obligations.HostMemoryAccessIsRangeChecked := by
  intro s a v hv
  obtain ⟨b, rfl⟩ := exists_toNat_eq (w := 8) hv
  refine ⟨fun ha => ?_, fun ha hs => ?_⟩
  · have hlt : a < Config.memSize := Nat.lt_succ_of_le ha
    refine ⟨congrArg _ (s.hostLoad_of_lt hlt), _, congrArg _ (s.hostStore_of_lt hlt b), ?_, fun c hc => ?_, rfl⟩
    · simp
    · simp [hc, State.byteAt]
  · rw [← State.raiseNoWord_of_safe hs]
    exact ⟨congrArg _ (s.hostLoad_of_ge ha), congrArg _ (s.hostStore_of_ge ha b)⟩

/-- Settles O56: an image that fits is a run of bytes stored from 0x200; a longer one raises. -/
theorem loadImageWritesFrom0x200 : Obligations.LoadImageWritesFrom0x200 := by
  intro bytes s
  refine ⟨fun hfits => ⟨_, congrArg _ (s.loadImage_of_fits hfits), fun k hk => ?_, fun a ha => ?_, rfl⟩, fun hlong hs => ?_⟩
  · have hin : Config.progBase ≤ 0x200 + k ∧ 0x200 + k - Config.progBase < bytes.length := by
      simp only [Config.progBase]
      omega
    rw [State.setMem_byteAt, Memory.byteAt_putBytes, dif_pos hin]
    simp
  · exact Memory.byteAt_putBytes_outside bytes s.mem 0x200 a ha
  · rw [← State.raiseNoWord_of_safe hs]
    exact congrArg _ (s.loadImage_of_long (Nat.not_le.2 hlong))

/-! ### What an operation other than Reset and RunCycle can do -/

/-- No mutator reaches the display, the reports or the font; keys are written by SetKey alone; STATUS can only take the
record of a failed access; memory keeps its form. -/
structure HostEffect (o : Operation) (s t : State) : Prop where
  display : t.display = s.display
  reports : t.reports = s.reports
  font : t.font = s.font
  keys : (∀ k b, o ≠ .setKey k b) → t.keys = s.keys
  status : t.status = s.status ∨ ∃ a, Config.memSize ≤ a ∧ t.status = (s.raiseNoWord a).status
  mem : s.mem.wf s.font → t.mem.wf s.font

theorem HostEffect.refl (o : Operation) (s : State) : HostEffect o s s := ⟨rfl, rfl, rfl, fun _ => rfl, .inl rfl, id⟩

theorem HostEffect.mutate {o : Operation} {s t : State} (ok : Bool) (h : HostEffect o s t) :
    HostEffect o s (s.mutate ok t).1 := by
  cases ok
  · exact .refl o s
  · exact h

theorem HostEffect.answer (o : Operation) (s : State) (ok : Bool) (r : Reply) : HostEffect o s (s.answer ok r).1 := by
  cases ok <;> exact .refl o s

theorem HostEffect.setMem {o : Operation} {s : State} {m : Memory} (h : s.mem.wf s.font → m.wf s.font) :
    HostEffect o s (s.setMem m) := ⟨rfl, rfl, rfl, fun _ => rfl, .inl rfl, h⟩

theorem HostEffect.raiseNoWord (o : Operation) (s : State) {a : Nat} (h : Config.memSize ≤ a) :
    HostEffect o s (s.raiseNoWord a) := by
  have heq : s.raiseNoWord a = { s with status := (s.raiseNoWord a).status } := by
    rw [State.raiseNoWord, State.raise_eq]
  rw [heq]
  exact ⟨rfl, rfl, rfl, fun _ => rfl, .inr ⟨a, h, rfl⟩, id⟩

theorem HostEffect.hostLoad (o : Operation) (s : State) (a : Nat) : HostEffect o s (s.hostLoad a).1 := by
  by_cases ha : a < Config.memSize
  · rw [s.hostLoad_of_lt ha]
    exact .refl o s
  · rw [s.hostLoad_of_ge (Nat.not_lt.1 ha)]
    exact .raiseNoWord o s (Nat.not_lt.1 ha)

theorem HostEffect.hostStore (o : Operation) (s : State) (a v : Nat) : HostEffect o s (s.hostStore a v).1 := by
  by_cases hv : v < 256
  · obtain ⟨b, rfl⟩ := exists_toNat_eq (w := 8) hv
    by_cases ha : a < Config.memSize
    · rw [s.hostStore_of_lt ha b]
      exact .setMem fun hwf => Memory.wf_put b hwf ha
    · rw [s.hostStore_of_ge (Nat.not_lt.1 ha) b]
      exact .raiseNoWord o s (Nat.not_lt.1 ha)
  · rw [s.hostStore_of_wide a hv]
    exact .refl o s

theorem HostEffect.loadImage (o : Operation) (s : State) (bytes : List Byte) :
    HostEffect o s (s.loadImage bytes).1 := by
  by_cases h : bytes.length ≤ Config.maxImage
  · rw [s.loadImage_of_fits h]
    refine .setMem fun hwf => Memory.wf_putBytes bytes hwf ?_
    simp only [Config.progBase, Config.maxImage, Config.memSize] at h ⊢
    omega
  · rw [s.loadImage_of_long h]
    exact .raiseNoWord o s (Nat.le_refl _)

theorem perform_effect (s : State) : ∀ o : Operation, o ≠ .reset → o ≠ .runCycle →
    ∃ p, perform o s = .next p ∧ HostEffect o s p.1
  | .reset, h, _ => absurd rfl h
  | .runCycle, _, h => absurd rfl h
  | .timerTick, _, _ => ⟨_, rfl, rfl, rfl, rfl, fun _ => rfl, .inl rfl, id⟩
  | .loadImage bytes, _, _ => ⟨_, rfl, .loadImage _ s bytes⟩
  | .setKey k b, _, _ => ⟨_, rfl, .mutate _ ⟨rfl, rfl, rfl, fun h => absurd rfl (h k b), .inl rfl, id⟩⟩
  | .setV _ _, _, _ => ⟨_, rfl, .mutate _ ⟨rfl, rfl, rfl, fun _ => rfl, .inl rfl, id⟩⟩
  | .setI _, _, _ => ⟨_, rfl, .mutate _ ⟨rfl, rfl, rfl, fun _ => rfl, .inl rfl, id⟩⟩
  | .setPC _, _, _ => ⟨_, rfl, .mutate _ ⟨rfl, rfl, rfl, fun _ => rfl, .inl rfl, id⟩⟩
  | .setSP _, _, _ => ⟨_, rfl, .mutate _ ⟨rfl, rfl, rfl, fun _ => rfl, .inl rfl, id⟩⟩
  | .setStack _ _, _, _ => ⟨_, rfl, .mutate _ ⟨rfl, rfl, rfl, fun _ => rfl, .inl rfl, id⟩⟩
  | .setDT _, _, _ => ⟨_, rfl, .mutate _ ⟨rfl, rfl, rfl, fun _ => rfl, .inl rfl, id⟩⟩
  | .setST _, _, _ => ⟨_, rfl, .mutate _ ⟨rfl, rfl, rfl, fun _ => rfl, .inl rfl, id⟩⟩
  | .setMem a v, _, _ => ⟨_, rfl, .hostStore _ s a v⟩
  | .getMem a, _, _ => ⟨_, rfl, .hostLoad _ s a⟩
  | .getKey _, _, _ => ⟨_, rfl, .answer _ s _ _⟩
  | .getV _, _, _ => ⟨_, rfl, .answer _ s _ _⟩
  | .getPixel _ _, _, _ => ⟨_, rfl, .answer _ s _ _⟩
  | .getStack _, _, _ => ⟨_, rfl, .answer _ s _ _⟩
  | .getI, _, _ => ⟨_, rfl, .refl _ s⟩
  | .getPC, _, _ => ⟨_, rfl, .refl _ s⟩
  | .getSP, _, _ => ⟨_, rfl, .refl _ s⟩
  | .getDT, _, _ => ⟨_, rfl, .refl _ s⟩
  | .getST, _, _ => ⟨_, rfl, .refl _ s⟩
  | .getStatus, _, _ => ⟨_, rfl, .refl _ s⟩
  | .getReports, _, _ => ⟨_, rfl, .refl _ s⟩

theorem perform_runCycle {s t : State} (h : step s = .next t) : perform .runCycle s = .next (t, .done) := by
  simp [perform, h]

/-- What an operation can do: it is Reset, a cycle, or keeps to the host's effects. -/
theorem perform_cases {o : Operation} {s t : State} {r : Reply} (h : perform o s = .next (t, r)) :
    (o = .reset ∧ t = s.resetMachine) ∨ (o = .runCycle ∧ step s = .next t) ∨ HostEffect o s t := by
  by_cases hreset : o = .reset
  · subst hreset
    cases h
    exact .inl ⟨rfl, rfl⟩
  by_cases hcycle : o = .runCycle
  · subst hcycle
    obtain ⟨u, hu⟩ := exists_step s
    rw [perform_runCycle hu] at h
    cases h
    exact .inr (.inl ⟨rfl, hu⟩)
  · obtain ⟨p, hp, heffect⟩ := perform_effect s o hreset hcycle
    rw [hp] at h
    cases h
    exact .inr (.inr heffect)

/-! ### The rules about every operation -/

theorem State.raiseNoWord_status_wf {s : State} {a : Nat} (h : s.status.wf) (ha : Config.memSize ≤ a) :
    (s.raiseNoWord a).status.wf := by
  cases hs : s.status.halted
  case true =>
    rw [State.raiseNoWord, State.raise_of_halted _ _ _ _ hs]
    exact h
  case false =>
    rw [State.raiseNoWord_of_safe hs]
    exact Status.wf_outOfRange ha

theorem HostEffect.inv {o : Operation} {s t : State} (h : HostEffect o s t) (hs : s.Inv) : t.Inv := by
  obtain ⟨hmem, hstatus, hreports⟩ := hs
  rw [State.Inv, h.font, h.reports]
  refine ⟨h.mem hmem, ?_, hreports⟩
  rcases h.status with heq | ⟨a, ha, heq⟩
  · rwa [heq]
  · rw [heq]
    exact State.raiseNoWord_status_wf hstatus ha

/-- Settles O9: Reset gives a reset state, a cycle keeps the invariant, and so does every other operation. -/
theorem everyOperationKeepsTheInvariant : Obligations.EveryOperationKeepsTheInvariant := by
  intro o s t r hs hperform
  rcases perform_cases hperform with ⟨-, rfl⟩ | ⟨-, hstep⟩ | heffect
  · exact invariantHoldsAfterReset s.font s.coupling
  · exact everyCycleKeepsTheInvariant s t hs hstep
  · exact heffect.inv hs

theorem Completed.display {i : Instr} {s t : State} (hc : Completed i s t) (h : Part.display ∉ writtenParts i) :
    t.display = s.display :=
  Display.ext_pixel (hc.frame.display_kept h)

/-- Settles O51: of a cycle's effects only a completing instruction can change the display. -/
theorem onlyDrawClearAndResetChangeTheDisplay : Obligations.OnlyDrawClearAndResetChangeTheDisplay := by
  intro o s t r hperform hne
  rcases perform_cases hperform with ⟨rfl, -⟩ | ⟨rfl, hstep⟩ | heffect
  · exact .inl rfl
  · rcases cycle_cases hstep with ⟨-, rfl⟩ | ⟨hs, u, hu, rfl⟩
    · exact absurd rfl hne
    rw [State.closeCycle_display] at hne
    cases hu with
    | completed op i _ hf hd hr hc =>
      refine .inr ⟨rfl, hs, op, hf, ?_⟩
      rcases display_mem_writtenParts (not_imp_comm.1 hc.display hne) with rfl | ⟨x, y, n, rfl⟩
      · exact .inl hd
      · exact .inr ⟨x, y, n, hd⟩
    | _ => exact absurd rfl hne
  · exact absurd heffect.display hne

/-- Settles O52: no cycle writes the keys, and of the other operations SetKey alone. -/
theorem onlyTheHostWritesTheKeys : Obligations.OnlyTheHostWritesTheKeys := by
  intro o s t r hperform hne
  rcases perform_cases hperform with ⟨rfl, -⟩ | ⟨rfl, hstep⟩ | heffect
  · exact .inl rfl
  · rcases cycle_cases hstep with ⟨-, rfl⟩ | ⟨-, u, hu, rfl⟩
    · exact absurd rfl hne
    · rw [State.closeCycle_keys] at hne
      exact absurd hu.keys hne
  · by_contra hnone
    rw [not_or, not_exists] at hnone
    exact hne (heffect.keys fun k b hset => hnone.2 k ⟨b, hset⟩)

/-- While halted, an operation other than Reset keeps STATUS, the reports and the display (R260). -/
theorem perform_of_halted {o : Operation} {s t : State} {r : Reply} (hs : s.status.halted = true)
    (ho : o ≠ .reset) (h : perform o s = .next (t, r)) :
    t.status = s.status ∧ t.reports = s.reports ∧ t.display = s.display := by
  rcases perform_cases h with ⟨hreset, -⟩ | ⟨-, hstep⟩ | heffect
  · exact absurd hreset ho
  · rw [step_of_halted hs] at hstep
    cases hstep
    exact ⟨rfl, rfl, rfl⟩
  · refine ⟨?_, heffect.reports, heffect.display⟩
    rcases heffect.status with heq | ⟨a, -, heq⟩
    · exact heq
    · rw [heq, State.raiseNoWord, State.raise_of_halted _ _ _ _ hs]

theorem performAll_cons_next {o : Operation} {os : List Operation} {s t : State}
    (h : performAll (o :: os) s = .next t) : ∃ u r, perform o s = .next (u, r) ∧ performAll os u = .next t := by
  rw [performAll] at h
  split at h
  case h_1 u r hu => exact ⟨u, r, hu, h⟩
  all_goals cases h

/-- Settles O53: by induction on the operations, each of which keeps the engine halted. -/
theorem onlyResetClearsTheFailureRecord : Obligations.OnlyResetClearsTheFailureRecord := by
  intro os
  induction os with
  | nil =>
    intro s t _ hall _
    cases hall
    exact ⟨rfl, rfl, rfl⟩
  | cons o os ih =>
    intro s t hs hall hno
    rw [List.mem_cons, not_or] at hno
    obtain ⟨u, r, hu, hrest⟩ := performAll_cons_next hall
    obtain ⟨hstatus, hreports, hdisplay⟩ := perform_of_halted hs (Ne.symm hno.1) hu
    obtain ⟨hstatus', hreports', hdisplay'⟩ := ih u t (by rw [hstatus, hs]) hrest hno.2
    exact ⟨hstatus'.trans hstatus, hreports'.trans hreports, hdisplay'.trans hdisplay⟩

/-! ### Reset and ticks -/

/-- Settles O55: Reset is the reset state of the machine's parameters, with the count of draws kept. -/
theorem resetOperationGivesTheResetState : Obligations.ResetOperationGivesTheResetState :=
  fun s => ⟨s.resetMachine, rfl, rfl, rfl, rfl, rfl⟩

/-- Settles O46: by induction on the number of ticks. -/
theorem ticksCountBothTimersDownToZero : Obligations.TicksCountBothTimersDownToZero := by
  intro n
  induction n with
  | zero => exact fun s => ⟨s, rfl, rfl, rfl, rfl⟩
  | succ n ih =>
    intro s
    obtain ⟨t, hrun, hdt, hst, hframe⟩ := ih s.tick
    have hdt' : s.tick.dt.toNat = s.dt.toNat - 1 := toNat_countDown s.dt
    have hst' : s.tick.st.toNat = s.st.toNat - 1 := toNat_countDown s.st
    exact ⟨t, hrun, by omega, by omega, hframe⟩

/-! ### Arguments in range and out of range -/

/-- What a host operation answers when one of its checks fails (R231). -/
def refusal (s : State) : Host.Outcome (State × Reply) Fault Refusal := .next (s, .refused)

theorem next_mutate_of_bad {s : State} (t : State) {ok : Bool} (h : ok = false) : .next (s.mutate ok t) = refusal s := by
  rw [h]
  rfl

theorem next_answer_of_bad {s : State} (r : Reply) {ok : Bool} (h : ok = false) : .next (s.answer ok r) = refusal s := by
  rw [h]
  rfl

/-- Settles O59: each check fails on its argument, and a failed check refuses. -/
theorem outOfRangeHostArgumentsAreRefused : Obligations.OutOfRangeHostArgumentsAreRefused := by
  intro s k v
  refine ⟨fun hk => ?_, fun hv => ?_, fun hv => ?_, fun hv => ?_, fun hv => ?_, fun h => ?_⟩
  · have hk16 : decide (k < 16) = false := decide_eq_false (by omega)
    have hpair : ∀ q : Bool, (decide (k < 16) && q) = false := by simp [hk16]
    exact ⟨next_mutate_of_bad _ (hpair _), next_answer_of_bad _ hk16, next_mutate_of_bad _ (hpair _),
      next_answer_of_bad _ hk16, next_mutate_of_bad _ (hpair _), next_answer_of_bad _ hk16⟩
  · have hv256 : decide (v < 256) = false := decide_eq_false (by omega)
    exact ⟨next_mutate_of_bad _ (by simp [hv256]), next_mutate_of_bad _ hv256, next_mutate_of_bad _ hv256,
      congrArg _ (s.hostStore_of_wide k (by omega))⟩
  · have hv65536 : decide (v < 65536) = false := decide_eq_false (by omega)
    exact ⟨next_mutate_of_bad _ hv65536, next_mutate_of_bad _ hv65536, next_mutate_of_bad _ (by simp [hv65536])⟩
  · exact next_mutate_of_bad _ (decide_eq_false (by omega))
  · exact next_mutate_of_bad _ (by simp; omega)
  · exact next_answer_of_bad _ (by simp; omega)

end Sys2Proof.Machine
end

section
/-! What a mutator writes (47_host_interface.md R225 to R230): each operation with arguments in range, on values of the
model's own types, then the accessors, and the restore of R233. -/

namespace Sys2Proof.Machine

/-! ### Each mutator and accessor on values in range -/

theorem perform_setV (s : State) (r : Reg) (b : Byte) :
    perform (.setV r.val b.toNat) s = .next (s.setReg r b, .done) := by
  simp [perform, State.mutate, b.isLt]

theorem perform_getV (s : State) (r : Reg) : perform (.getV r.val) s = .next (s, .number (s.reg r).toNat) := by
  simp [perform, State.answer]

theorem perform_setStack (s : State) (k : Fin 16) (w : Word) :
    perform (.setStack k.val w.toNat) s = .next (s.setSlot k w, .done) := by
  simp [perform, State.mutate, w.isLt]

theorem perform_getStack (s : State) (k : Fin 16) :
    perform (.getStack k.val) s = .next (s, .number (s.slot k).toNat) := by
  simp [perform, State.answer]

theorem perform_setKey (s : State) (k : Fin 16) (b : Bool) :
    perform (.setKey k.val b.toNat) s = .next (s.setKey k b, .done) := by
  cases b <;> simp [perform, State.mutate]

theorem perform_getKey (s : State) (k : Fin 16) : perform (.getKey k.val) s = .next (s, .flag (s.key k)) := by
  simp [perform, State.answer]

theorem perform_setI (s : State) (w : Word) : perform (.setI w.toNat) s = .next (s.setIndex w, .done) := by
  simp [perform, State.mutate, w.isLt]

theorem perform_setPC (s : State) (w : Word) : perform (.setPC w.toNat) s = .next (s.setPc w, .done) := by
  simp [perform, State.mutate, w.isLt]

theorem perform_setSP (s : State) (n : Fin 17) : perform (.setSP n.val) s = .next (s.setSp n, .done) := by
  simp [perform, State.mutate]

theorem perform_setDT (s : State) (b : Byte) : perform (.setDT b.toNat) s = .next (s.setDt b, .done) := by
  simp [perform, State.mutate, b.isLt]

theorem perform_setST (s : State) (b : Byte) : perform (.setST b.toNat) s = .next (s.setSt b, .done) := by
  simp [perform, State.mutate, b.isLt]

theorem perform_setMem (s : State) {a : Nat} (h : a < Config.memSize) (b : Byte) :
    perform (.setMem a b.toNat) s = .next (s.setMem (s.mem.put s.font a b), .done) :=
  congrArg _ (s.hostStore_of_lt h b)

/-! ### An accessor after its mutator -/

theorem changesOnly_setReg (s : State) (r : Reg) (b : Byte) : ChangesOnly (·.val = r.val) [] s (s.setReg r b) := by
  constructor
  case regs_kept =>
    intro q hq
    have hrq : r ≠ q := fun h => hq (congrArg _ h.symm)
    simp [hrq]
  all_goals simp

theorem changesOnly_setSlot (s : State) (k : Fin 16) (w : Word) : ChangesOnly noReg [.stack] s (s.setSlot k w) := by
  constructor <;> simp

/-- Settles O58: each mutator is the write of one piece of the state, and its accessor the read of that piece. -/
theorem accessorsReadBackWhatMutatorsWrote : Obligations.AccessorsReadBackWhatMutatorsWrote := by
  intro s k v w sp b hk hv hw hsp hb
  obtain ⟨k, rfl⟩ : ∃ i : Fin 16, i.val = k := ⟨⟨k, hk⟩, rfl⟩
  obtain ⟨v, rfl⟩ := exists_toNat_eq (w := 8) hv
  obtain ⟨w, rfl⟩ := exists_toNat_eq (w := 16) hw
  obtain ⟨sp, rfl⟩ : ∃ n : Fin 17, n.val = sp := ⟨⟨sp, Nat.lt_succ_of_le hsp⟩, rfl⟩
  obtain ⟨b, rfl⟩ : ∃ f : Bool, f.toNat = b := ⟨b == 1, by interval_cases b <;> rfl⟩
  have hother : ∀ {j : Fin 16}, j.val ≠ k.val → k ≠ j := fun hj h => hj (congrArg _ h.symm)
  refine ⟨⟨_, perform_setV s k v, ?_, changesOnly_setReg s k v, rfl⟩,
    ⟨_, perform_setStack s k w, ?_, fun j hj => ?_, rfl, changesOnly_setSlot s k w, rfl⟩,
    ⟨_, perform_setKey s k b, ?_, fun j hj => ?_, rfl⟩,
    ⟨_, perform_setI s w, rfl, rfl⟩, ⟨_, perform_setPC s w, rfl, rfl⟩, ⟨_, perform_setSP s sp, rfl, rfl⟩,
    ⟨_, perform_setDT s v, rfl, rfl⟩, ⟨_, perform_setST s v, rfl, rfl⟩⟩
  · simp [perform_getV]
  · simp [perform_getStack]
  · simp [hother hj]
  · cases b <;> simp [perform_getKey]
  · simp [hother hj]

/-! ### Sequences of operations -/

theorem performAll_cons {o : Operation} {os : List Operation} {s t : State} {r : Reply}
    (h : perform o s = .next (t, r)) : performAll (o :: os) s = performAll os t := by
  simp [performAll, h]

theorem performAll_append {os os' : List Operation} : ∀ {s t : State}, performAll os s = .next t →
    performAll (os ++ os') s = performAll os' t := by
  induction os with
  | nil =>
    intro s t h
    cases h
    rfl
  | cons o os ih =>
    intro s t h
    obtain ⟨u, r, hu, hrest⟩ := performAll_cons_next h
    rw [List.cons_append, performAll_cons hu, ih hrest]

/-- One operation for each k below n, where the k-th leads from the k-th state to the next. -/
theorem performAll_map_range {op : Nat → Operation} {stage : Nat → State} {n : Nat}
    (h : ∀ k < n, perform (op k) (stage k) = .next (stage (k + 1), .done)) :
    performAll ((List.range n).map op) (stage 0) = .next (stage n) := by
  induction n with
  | zero => rfl
  | succ n ih =>
    rw [List.range_succ, List.map_append, performAll_append (ih fun k hk => h k (Nat.lt_succ_of_lt hk))]
    exact performAll_cons (h n (Nat.lt_succ_self n))

/-! ### A vector rewritten entry by entry -/

/-- The first k entries new, the others old. -/
def mixed {α : Type} {n : Nat} (new old : Vector α n) (k : Nat) : Vector α n :=
  Vector.ofFn fun r => if r.val < k then new[r] else old[r]

theorem mixed_zero {α : Type} {n : Nat} (new old : Vector α n) : mixed new old 0 = old :=
  Vector.ext fun r hr => by simp [mixed]

theorem mixed_full {α : Type} {n : Nat} (new old : Vector α n) : mixed new old n = new :=
  Vector.ext fun r hr => by simp [mixed]

theorem mixed_set {α : Type} {n : Nat} (new old : Vector α n) {k : Nat} (hk : k < n) :
    (mixed new old k).set k new[k] = mixed new old (k + 1) := by
  apply Vector.ext
  intro r hr
  rw [Vector.getElem_set]
  by_cases hkr : k = r
  · subst hkr
    simp [mixed]
  · have hiff : r ≤ k ↔ r < k := by omega
    simp [mixed, hkr, hiff]

/-! ### The restore, piece by piece -/

theorem performAll_setV (s t : State) :
    performAll ((List.range 16).map fun r => .setV r (s.reg (Fin.ofNat 16 r)).toNat) t =
      .next { t with regs := s.regs } := by
  have hrun := performAll_map_range (op := fun r => .setV r (s.reg (Fin.ofNat 16 r)).toNat)
    (stage := fun k => { t with regs := mixed s.regs t.regs k }) (n := 16) fun k hk => ?_
  · rwa [mixed_zero, mixed_full] at hrun
  · obtain ⟨k, rfl⟩ : ∃ i : Fin 16, i.val = k := ⟨⟨k, hk⟩, rfl⟩
    rw [perform_setV, ← mixed_set s.regs t.regs k.isLt]
    simp [State.setReg, State.reg]

theorem performAll_setStack (s t : State) :
    performAll ((List.range 16).map fun k => .setStack k (s.slot (Fin.ofNat 16 k)).toNat) t =
      .next { t with stack := s.stack } := by
  have hrun := performAll_map_range (op := fun k => .setStack k (s.slot (Fin.ofNat 16 k)).toNat)
    (stage := fun k => { t with stack := mixed s.stack t.stack k }) (n := 16) fun k hk => ?_
  · rwa [mixed_zero, mixed_full] at hrun
  · obtain ⟨k, rfl⟩ : ∃ i : Fin 16, i.val = k := ⟨⟨k, hk⟩, rfl⟩
    rw [perform_setStack, ← mixed_set s.stack t.stack k.isLt]
    simp [State.setSlot, State.slot]

theorem performAll_setKey (s t : State) :
    performAll ((List.range 16).map fun k => .setKey k (s.key (Fin.ofNat 16 k)).toNat) t =
      .next { t with keys := s.keys } := by
  have hrun := performAll_map_range (op := fun k => .setKey k (s.key (Fin.ofNat 16 k)).toNat)
    (stage := fun k => { t with keys := mixed s.keys t.keys k }) (n := 16) fun k hk => ?_
  · rwa [mixed_zero, mixed_full] at hrun
  · obtain ⟨k, rfl⟩ : ∃ i : Fin 16, i.val = k := ⟨⟨k, hk⟩, rfl⟩
    rw [perform_setKey, ← mixed_set s.keys t.keys k.isLt]
    simp [State.setKey, State.key]

/-- Memory with nothing listed after the first k cells have been written with the bytes of `s`. -/
def refilled (f : Config.Font) (s : State) : Nat → Memory
  | 0 => []
  | k + 1 => (refilled f s k).put f k (s.byteAt k)

theorem refilled_byteAt (f : Config.Font) (s : State) {a : Nat} :
    ∀ {k : Nat}, a < k → (refilled f s k).byteAt f a = s.byteAt a
  | k + 1, h => by
    rw [refilled, Memory.byteAt_put]
    by_cases hak : a = k
    · rw [if_pos hak, hak]
    · rw [if_neg hak, refilled_byteAt f s (by omega)]

theorem refilled_wf (f : Config.Font) (s : State) : ∀ {k : Nat}, k ≤ Config.memSize → (refilled f s k).wf f
  | 0, _ => Memory.wf_nil
  | _ + 1, h => Memory.wf_put _ (refilled_wf f s (Nat.le_of_succ_le h)) h

theorem performAll_setMem (s : State) {t : State} (ht : t.mem = []) {n : Nat} (hn : n ≤ Config.memSize) :
    performAll ((List.range n).map fun a => .setMem a (s.byteAt a).toNat) t =
      .next { t with mem := refilled t.font s n } := by
  have hrun := performAll_map_range (op := fun a => .setMem a (s.byteAt a).toNat)
    (stage := fun k => { t with mem := refilled t.font s k }) (n := n)
    fun a ha => perform_setMem _ (Nat.lt_of_lt_of_le ha hn) (s.byteAt a)
  have hstart : { t with mem := refilled t.font s 0 } = t := by rw [refilled, ← ht]
  rwa [hstart] at hrun

/-- The registers of one value each. -/
theorem performAll_setScalars (s u : State) :
    performAll [.reset, .setI s.index.toNat, .setPC s.pc.toNat, .setSP s.sp.val, .setDT s.dt.toNat, .setST s.st.toNat] u =
      .next { u.resetMachine with index := s.index, pc := s.pc, sp := s.sp, dt := s.dt, st := s.st } := by
  rw [performAll_cons (show perform .reset u = .next (u.resetMachine, .done) from rfl), performAll_cons (perform_setI _ _),
    performAll_cons (perform_setPC _ _), performAll_cons (perform_setSP _ _), performAll_cons (perform_setDT _ _),
    performAll_cons (perform_setST _ _)]
  rfl

/-- Settles O60: the pieces one after the other; the memory written cell by cell reads as that of `s`, and canonical
memories that read alike are equal. -/
theorem mutatorsRestoreAllButDisplayAndStatus : Obligations.MutatorsRestoreAllButDisplayAndStatus := by
  intro s u
  have hwf : (refilled u.font s Config.memSize).wf u.font := refilled_wf u.font s (Nat.le_refl _)
  have hbyte : ∀ a, a < 4096 → (refilled u.font s Config.memSize).byteAt u.font a = s.byteAt a :=
    fun a ha => refilled_byteAt u.font s ha
  refine ⟨refilled u.font s Config.memSize, ?_, hwf, hbyte, fun hfont hs => ?_⟩
  · rw [State.restoreOperations]
    have hregs := (performAll_append (performAll_setScalars s u)).trans (performAll_setV s _)
    have hstack := (performAll_append hregs).trans (performAll_setStack s _)
    have hkeys := (performAll_append hstack).trans (performAll_setKey s _)
    exact (performAll_append hkeys).trans (performAll_setMem s rfl (Nat.le_refl _))
  · rw [hfont] at hwf hbyte ⊢
    exact memoriesThatReadAlikeAreEqual s.font _ _ hwf hs hbyte

end Sys2Proof.Machine
end

section
/-! DRAW (44_display.md R190, R191, R193): a sprite is a list of pixel writes at pairwise different places, so each place
is toggled at most once. -/

namespace Sys2Proof.Machine

/-! ### Where the pixels of a sprite land -/

theorem landsOn_iff (vx vy : Byte) (c r : Nat) (cx : Fin 64) (cy : Fin 32) :
    landsOn vx vy c r cx cy ↔ pixelColumn vx c = cx ∧ pixelRow vy r = cy := by
  have hcol : (pixelColumn vx c).val = (vx.toNat + c) % 64 := Nat.mod_add_mod _ _ _
  have hrow : (pixelRow vy r).val = (vy.toNat + r) % 32 := Nat.mod_add_mod _ _ _
  rw [landsOn, Fin.ext_iff, Fin.ext_iff, hcol, hrow, eq_comm, @eq_comm _ cy.val]

/-- Eight columns and at most 32 rows do not meet themselves when they wrap around. -/
theorem landsOn_unique {vx vy : Byte} {c c' r r' : Nat} {cx : Fin 64} {cy : Fin 32} (h : landsOn vx vy c r cx cy)
    (h' : landsOn vx vy c' r' cx cy) (hc : c < 8) (hc' : c' < 8) (hr : r < r' + 32) (hr' : r' < r + 32) :
    c = c' ∧ r = r' := by
  obtain ⟨hx, hy⟩ := h
  obtain ⟨hx', hy'⟩ := h'
  omega

/-! ### A sprite as a list of pixel writes -/

/-- A pixel of a sprite: its bit, and the column and row it lands on. -/
abbrev PixelWrite := Bool × Fin 64 × Fin 32

def rowWrites (vx vy b : Byte) (r : Nat) : List PixelWrite :=
  (List.range 8).map fun c => (spriteBit b c, pixelColumn vx c, pixelRow vy r)

def spriteWrites (vx vy : Byte) : Nat → List Byte → List PixelWrite
  | _, [] => []
  | r, b :: bs => rowWrites vx vy b r ++ spriteWrites vx vy (r + 1) bs

def Canvas.drawAll (k : Canvas) (ws : List PixelWrite) : Canvas := ws.foldl (fun k w => k.drawPixel w.1 w.2.1 w.2.2) k

theorem Canvas.drawRow_eq (k : Canvas) (vx vy b : Byte) (r : Nat) :
    k.drawRow vx vy b r = k.drawAll (rowWrites vx vy b r) := by
  rw [Canvas.drawRow, Canvas.drawAll, rowWrites, List.foldl_map]

theorem Canvas.drawRows_eq (vx vy : Byte) (bs : List Byte) : ∀ (k : Canvas) (r : Nat),
    Canvas.drawRows vx vy k r bs = k.drawAll (spriteWrites vx vy r bs) := by
  induction bs with
  | nil => exact fun _ _ => rfl
  | cons b bs ih =>
    intro k r
    rw [Canvas.drawRows, ih, Canvas.drawRow_eq, spriteWrites, Canvas.drawAll, Canvas.drawAll, Canvas.drawAll,
      List.foldl_append]

theorem mem_rowWrites {vx vy b : Byte} {r : Nat} {w : PixelWrite} :
    w ∈ rowWrites vx vy b r ↔ ∃ c, c < 8 ∧ w = (spriteBit b c, pixelColumn vx c, pixelRow vy r) := by
  simp only [rowWrites, List.mem_map, List.mem_range, eq_comm]

theorem mem_spriteWrites {vx vy : Byte} {w : PixelWrite} {bs : List Byte} : ∀ {r : Nat},
    w ∈ spriteWrites vx vy r bs ↔
      ∃ c j, c < 8 ∧ ∃ hj : j < bs.length, w = (spriteBit bs[j] c, pixelColumn vx c, pixelRow vy (r + j)) := by
  induction bs with
  | nil => simp [spriteWrites]
  | cons b bs ih =>
    intro r
    rw [spriteWrites, List.mem_append, mem_rowWrites, ih]
    constructor
    · rintro (⟨c, hc, rfl⟩ | ⟨c, j, hc, hj, rfl⟩)
      · exact ⟨c, 0, hc, Nat.succ_pos _, rfl⟩
      · refine ⟨c, j + 1, hc, Nat.succ_lt_succ hj, ?_⟩
        rw [List.getElem_cons_succ, Nat.add_right_comm, Nat.add_assoc]
    · rintro ⟨c, j, hc, hj, rfl⟩
      cases j with
      | zero => exact .inl ⟨c, hc, rfl⟩
      | succ j =>
        refine .inr ⟨c, j, hc, Nat.lt_of_succ_lt_succ hj, ?_⟩
        rw [List.getElem_cons_succ, Nat.add_right_comm, Nat.add_assoc]

/-- The pixels of a sprite of at most 32 rows land on pairwise different places. -/
theorem spriteWrites_places_nodup (vx vy : Byte) (bs : List Byte) : ∀ r : Nat, bs.length ≤ 32 →
    ((spriteWrites vx vy r bs).map Prod.snd).Nodup := by
  induction bs with
  | nil => exact fun _ _ => List.nodup_nil
  | cons b bs ih =>
    intro r hlen
    rw [List.length_cons] at hlen
    rw [spriteWrites, List.map_append, List.nodup_append]
    refine ⟨?_, ih (r + 1) (by omega), ?_⟩
    · rw [rowWrites, List.map_map]
      refine List.nodup_range.map_on fun c hc c' hc' heq => ?_
      rw [List.mem_range] at hc hc'
      have hcol : pixelColumn vx c = pixelColumn vx c' := congrArg Prod.fst heq
      exact (landsOn_unique ((landsOn_iff vx vy c r _ _).2 ⟨rfl, rfl⟩) ((landsOn_iff vx vy c' r _ _).2 ⟨hcol.symm, rfl⟩)
        hc hc' (by omega) (by omega)).1
    · rintro p hp q hq rfl
      obtain ⟨w, hw, rfl⟩ := List.mem_map.1 hp
      obtain ⟨c, hc, rfl⟩ := mem_rowWrites.1 hw
      obtain ⟨w', hw', heq⟩ := List.mem_map.1 hq
      obtain ⟨c', j, hc', hj, rfl⟩ := mem_spriteWrites.1 hw'
      have hland := (landsOn_iff vx vy c' (r + 1 + j) (pixelColumn vx c) (pixelRow vy r)).2
        ⟨congrArg Prod.fst heq, congrArg Prod.snd heq⟩
      have hrow := (landsOn_unique ((landsOn_iff vx vy c r _ _).2 ⟨rfl, rfl⟩) hland hc hc' (by omega) (by omega)).2
      omega

/-! ### Drawing a list of pixel writes -/

/-- Writes at pairwise different places: each place is XORed once, and a collision is a set bit on a set pixel. -/
theorem Canvas.drawAll_spec (ws : List PixelWrite) : ∀ k : Canvas, (ws.map Prod.snd).Nodup →
    ((k.drawAll ws).collision = true ↔
      k.collision = true ∨ ∃ cx cy, (true, cx, cy) ∈ ws ∧ k.display.pixel cx cy = true) ∧
    ∀ cx cy, (k.drawAll ws).display.pixel cx cy = (k.display.pixel cx cy ^^ decide ((true, cx, cy) ∈ ws)) := by
  induction ws with
  | nil => intro k _; simp [Canvas.drawAll]
  | cons w ws ih =>
    obtain ⟨bit, x, y⟩ := w
    intro k hnodup
    rw [List.map_cons, List.nodup_cons] at hnodup
    obtain ⟨hfresh, hnodup⟩ := hnodup
    obtain ⟨hcollision, hpixel⟩ := ih (k.drawPixel bit x y) hnodup
    obtain ⟨hfirst, hplaces⟩ := k.drawPixel_eq bit x y
    have hnew : ∀ {cx cy}, (true, cx, cy) ∈ ws → ¬ (x = cx ∧ y = cy) := by
      rintro cx cy hmem ⟨rfl, rfl⟩
      exact hfresh (List.mem_map.2 ⟨_, hmem, rfl⟩)
    have hall : k.drawAll ((bit, x, y) :: ws) = (k.drawPixel bit x y).drawAll ws := rfl
    rw [hall]
    constructor
    · rw [hcollision, hfirst, Bool.or_eq_true, Bool.and_eq_true, or_assoc]
      refine or_congr_right ⟨?_, ?_⟩
      · rintro (⟨rfl, hset⟩ | ⟨cx, cy, hmem, hset⟩)
        · exact ⟨x, y, List.mem_cons_self, hset⟩
        · rw [hplaces, if_neg (hnew hmem)] at hset
          exact ⟨cx, cy, List.mem_cons_of_mem _ hmem, hset⟩
      · rintro ⟨cx, cy, hmem, hset⟩
        rcases List.mem_cons.1 hmem with heq | hmem
        · cases heq
          exact .inl ⟨rfl, hset⟩
        · refine .inr ⟨cx, cy, hmem, ?_⟩
          rw [hplaces, if_neg (hnew hmem)]
          exact hset
    · intro cx cy
      rw [hpixel, hplaces]
      by_cases hplace : x = cx ∧ y = cy
      · have hout : (true, cx, cy) ∉ ws := fun hmem => hnew hmem hplace
        obtain ⟨rfl, rfl⟩ := hplace
        cases bit <;> simp [hout]
      · have hother : (true, cx, cy) ≠ (bit, x, y) := by
          rintro ⟨⟩
          exact hplace ⟨rfl, rfl⟩
        simp [hplace, hother]

/-! ### Drawing the sprite at I -/

/-- A set bit of the sprite of `n` rows at I lands on the pixel. -/
def SpriteSets (s : State) (vx vy : Byte) (n : Nat) (cx : Fin 64) (cy : Fin 32) : Prop :=
  ∃ c r, c < 8 ∧ r < n ∧ landsOn vx vy c r cx cy ∧ spritePixel s c r = true

theorem length_bytesAtIndex (s : State) (n : Nat) : (s.bytesAtIndex n).length = n := Memory.length_bytesFrom _ _ _

theorem getElem_bytesAtIndex (s : State) {n r : Nat} (h : r < (s.bytesAtIndex n).length) :
    (s.bytesAtIndex n)[r] = s.byteAt (s.index.toNat + r) := Memory.getElem_bytesFrom _ _ _ _ h

theorem mem_spriteWrites_iff (s : State) (vx vy : Byte) (n : Nat) (cx : Fin 64) (cy : Fin 32) :
    (true, cx, cy) ∈ spriteWrites vx vy 0 (s.bytesAtIndex n) ↔ SpriteSets s vx vy n cx cy := by
  rw [mem_spriteWrites]
  constructor
  · rintro ⟨c, r, hc, hr, heq⟩
    rw [getElem_bytesAtIndex, Nat.zero_add, Prod.mk.injEq, Prod.mk.injEq] at heq
    obtain ⟨hbit, hcol, hrow⟩ := heq
    rw [length_bytesAtIndex] at hr
    exact ⟨c, r, hc, hr, (landsOn_iff vx vy c r cx cy).2 ⟨hcol.symm, hrow.symm⟩, hbit.symm⟩
  · rintro ⟨c, r, hc, hr, hland, hbit⟩
    obtain ⟨rfl, rfl⟩ := (landsOn_iff vx vy c r cx cy).1 hland
    refine ⟨c, r, hc, by rwa [length_bytesAtIndex], ?_⟩
    rw [getElem_bytesAtIndex, Nat.zero_add]
    exact congrArg (·, _, _) hbit.symm

theorem drawSprite_spec (s : State) (d : Display) (vx vy : Byte) {n : Nat} (hn : n ≤ 15) :
    ((d.drawSprite vx vy (s.bytesAtIndex n)).collision = true ↔
      ∃ cx cy, SpriteSets s vx vy n cx cy ∧ d.pixel cx cy = true) ∧
    ∀ cx cy, (SpriteSets s vx vy n cx cy → (d.drawSprite vx vy (s.bytesAtIndex n)).display.pixel cx cy = !d.pixel cx cy) ∧
      (¬ SpriteSets s vx vy n cx cy → (d.drawSprite vx vy (s.bytesAtIndex n)).display.pixel cx cy = d.pixel cx cy) := by
  have hnodup := spriteWrites_places_nodup vx vy (s.bytesAtIndex n) 0 (by rw [length_bytesAtIndex]; omega)
  obtain ⟨hcollision, hpixel⟩ := Canvas.drawAll_spec _ ⟨d, false⟩ hnodup
  simp only [Display.drawSprite, Canvas.drawRows_eq]
  constructor
  · simpa [mem_spriteWrites_iff] using hcollision
  · intro cx cy
    rw [hpixel, ← mem_spriteWrites_iff]
    exact ⟨fun h => by simp [h], fun h => by simp [h]⟩

theorem spriteSets_iff_of_landsOn {s : State} {vx vy : Byte} {n c r : Nat} {cx : Fin 64} {cy : Fin 32} (hn : n ≤ 15)
    (hc : c < 8) (hr : r < n) (h : landsOn vx vy c r cx cy) :
    SpriteSets s vx vy n cx cy ↔ spritePixel s c r = true := by
  constructor
  · rintro ⟨c', r', hc', hr', hland, hbit⟩
    obtain ⟨rfl, rfl⟩ := landsOn_unique h hland hc hc' (by omega) (by omega)
    exact hbit
  · exact fun hbit => ⟨c, r, hc, hr, h, hbit⟩

theorem State.indexRangeOk_of_sprite {s : State} {n : Nat} (h : n = 0 ∨ s.index.toNat + n - 1 ≤ 4095) :
    s.indexRangeOk n = true := by
  rw [s.indexRangeOk_iff, Config.memSize]
  omega

/-- Settles O41: a place of the sprite is XORed with its one pixel, and VF is the collision. -/
theorem drawXorsTheSpriteWithWrapAround : Obligations.DrawXorsTheSpriteWithWrapAround := by
  intro x y n s hn hrange
  obtain ⟨hcollision, hpixel⟩ := drawSprite_spec s s.display (s.reg x) (s.reg y) hn
  refine ⟨_, exec_drw_of_ok x y (State.indexRangeOk_of_sprite hrange), fun c r cx cy hc hr hland => ?_,
    fun cx cy hnone => ?_, ?_, ?_, rfl, changesOnly_draw s _ _⟩
  · have hsets := spriteSets_iff_of_landsOn (s := s) hn hc hr hland
    cases hbit : spritePixel s c r
    case true =>
      rw [Bool.xor_true]
      exact (hpixel cx cy).1 (hsets.2 hbit)
    case false =>
      rw [Bool.xor_false]
      exact (hpixel cx cy).2 (by simp [hsets, hbit])
  · exact (hpixel cx cy).2 fun ⟨c, r, hc, hr, hland, _⟩ => hnone c r hc hr hland
  · rw [State.reg_15_draw]
    exact flagByte_zero_or_one _
  · rw [State.reg_15_draw, flagByte_eq_one, hcollision]
    refine exists_congr fun cx => exists_congr fun cy => ?_
    obtain ⟨hset, hkept⟩ := hpixel cx cy
    constructor
    · rintro ⟨hsets, hon⟩
      exact ⟨hon, (hset hsets).trans (by rw [hon]; rfl)⟩
    · rintro ⟨hon, hoff⟩
      refine ⟨?_, hon⟩
      by_contra hno
      have hstill := (hkept hno).trans hon
      exact absurd (hoff.symm.trans hstill) (by decide)

theorem bytesAtIndex_congr {s u : State} (hindex : u.index = s.index) (hbyte : ∀ a, u.byteAt a = s.byteAt a) (n : Nat) :
    u.bytesAtIndex n = s.bytesAtIndex n := by
  refine List.ext_getElem (by rw [length_bytesAtIndex, length_bytesAtIndex]) fun r hr hr' => ?_
  rw [getElem_bytesAtIndex, getElem_bytesAtIndex, hindex, hbyte]

/-- Settles O42: the second draw toggles the places the first one toggled. -/
theorem drawingTwiceRestoresTheDisplay : Obligations.DrawingTwiceRestoresTheDisplay := by
  intro x y n s t u hn hrange ht hdisplay hindex hbyte hx hy
  have hok : s.indexRangeOk n = true := State.indexRangeOk_of_sprite hrange
  have hok' : u.indexRangeOk n = true := by rwa [State.indexRangeOk, hindex]
  have hfirst : t.display = (s.display.drawSprite (s.reg x) (s.reg y) (s.bytesAtIndex n)).display := by
    rw [exec_drw_of_ok x y hok] at ht
    cases ht
    rfl
  have hsecond : u.display.drawSprite (u.reg x) (u.reg y) (u.bytesAtIndex n) =
      t.display.drawSprite (s.reg x) (s.reg y) (s.bytesAtIndex n) := by
    rw [hx, hy, bytesAtIndex_congr hindex hbyte, hdisplay]
  obtain ⟨-, hpixel⟩ := drawSprite_spec s s.display (s.reg x) (s.reg y) hn
  obtain ⟨hcollision', hpixel'⟩ := drawSprite_spec s t.display (s.reg x) (s.reg y) hn
  rw [← hfirst] at hpixel
  refine ⟨_, exec_drw_of_ok x y hok', ?_, ?_⟩
  · show (u.display.drawSprite (u.reg x) (u.reg y) (u.bytesAtIndex n)).display = s.display
    rw [hsecond]
    refine Display.ext_pixel fun cx cy => ?_
    by_cases hsets : SpriteSets s (s.reg x) (s.reg y) n cx cy
    · rw [(hpixel' cx cy).1 hsets, (hpixel cx cy).1 hsets, Bool.not_not]
    · rw [(hpixel' cx cy).2 hsets, (hpixel cx cy).2 hsets]
  · rw [State.reg_15_draw, flagByte_eq_one, hsecond, hcollision']
    constructor
    · rintro ⟨cx, cy, ⟨c, r, hc, hr, hland, hbit⟩, hon⟩
      exact ⟨c, r, cx, cy, hc, hr, hland, hbit, hon⟩
    · rintro ⟨c, r, cx, cy, hc, hr, hland, hbit, hon⟩
      exact ⟨cx, cy, ⟨c, r, hc, hr, hland, hbit⟩, hon⟩

end Sys2Proof.Machine
end
